-- ==== Sys2Proof/Word.lean ====
section
/-! DEFINITION. The widths the spec gives the machine (00_scope R5, R6): every value is unsigned, bit 0 is the least
significant bit. -/

namespace Sys2Proof

/-- A byte: 8 bits (R6). Registers, timers, memory cells and NN. -/
abbrev Byte := BitVec 8

/-- A word: 16 bits (R6). `pc`, `I`, stack entries, opcodes and NNNN. -/
abbrev Word := BitVec 16

/-- A register selector, the X or Y field (R65): 16 values, all valid (R68). -/
abbrev Reg := BitVec 4

/-- The 4-bit literal N (R65). -/
abbrev Nibble := BitVec 4

/-- The 12-bit address literal NNN (R65). -/
abbrev Addr12 := BitVec 12

/-- The register VF, the one flag output (R16). -/
abbrev VF : Reg := 0xF#4

/-- The highest address and the highest `pc` value (R18, R46). -/
abbrev maxAddr : Nat := 0xFFFF

end Sys2Proof
end

