-- ==== Sys2Proof/Syntax.lean ====
section
/-! DEFINITION. The instruction set: one constructor per row of 30_encoding R70, in the table's order, with the fields
the row has (R65). Each field has exactly the width of its bits, so every term is an instruction of the table. -/

namespace Sys2Proof

/-- The 48 known instructions (R70). A word of no row is Unknown and has no constructor (R77, R83). -/
inductive Instr where
  /-- 00CN: scroll down N rows (R120). -/
  | scd (n : Nibble)
  /-- 00DN: scroll up N rows (R121). -/
  | scu (n : Nibble)
  /-- 00E0: clear the selected planes (R118). -/
  | cls
  /-- 00EE: return (R87). -/
  | ret
  /-- 00FB: scroll right 4 columns (R122). -/
  | scr
  /-- 00FC: scroll left 4 columns (R123). -/
  | scl
  /-- 00FD: halt (R96). -/
  | exit
  /-- 00FE: low resolution (R124). -/
  | lores
  /-- 00FF: high resolution (R125). -/
  | hires
  /-- 1NNN: jump (R90). -/
  | jp (nnn : Addr12)
  /-- 2NNN: call (R89). -/
  | call (nnn : Addr12)
  /-- 3XNN: skip if V[X] = NN (R92). -/
  | seImm (x : Reg) (nn : Byte)
  /-- 4XNN: skip if V[X] ≠ NN (R93). -/
  | sneImm (x : Reg) (nn : Byte)
  /-- 5XY0: skip if V[X] = V[Y] (R94). -/
  | seReg (x y : Reg)
  /-- 5XY2: store the registers between X and Y (R141). -/
  | save (x y : Reg)
  /-- 5XY3: load the registers between X and Y (R142). -/
  | load (x y : Reg)
  /-- 6XNN: load an immediate (R99). -/
  | ldImm (x : Reg) (nn : Byte)
  /-- 7XNN: add an immediate (R100). -/
  | addImm (x : Reg) (nn : Byte)
  /-- 8XY0: assign (R101). -/
  | ldReg (x y : Reg)
  /-- 8XY1: OR (R102). -/
  | orReg (x y : Reg)
  /-- 8XY2: AND (R103). -/
  | andReg (x y : Reg)
  /-- 8XY3: XOR (R104). -/
  | xorReg (x y : Reg)
  /-- 8XY4: add with carry out (R105). -/
  | addReg (x y : Reg)
  /-- 8XY5: V[X] − V[Y] (R106). -/
  | sub (x y : Reg)
  /-- 8XY6: shift right by one; Y is encoded and ignored (R107). -/
  | shr (x y : Reg)
  /-- 8XY7: V[Y] − V[X] (R108). -/
  | subn (x y : Reg)
  /-- 8XYE: shift left by one; Y is encoded and ignored (R109). -/
  | shl (x y : Reg)
  /-- 9XY0: skip if V[X] ≠ V[Y] (R95). -/
  | sneReg (x y : Reg)
  /-- ANNN: load I (R133). -/
  | ldI (nnn : Addr12)
  /-- BNNN: jump with a register offset; X is bits 11:8 of NNN (R91, R85). -/
  | jpOffset (nnn : Addr12)
  /-- CXNN: random byte under a mask (R111). -/
  | rnd (x : Reg) (nn : Byte)
  /-- DXYN: draw a sprite (R119). -/
  | drw (x y : Reg) (n : Nibble)
  /-- EX9E: skip if key V[X] is pressed (R127). -/
  | skp (x : Reg)
  /-- EXA1: skip if key V[X] is not pressed (R128). -/
  | sknp (x : Reg)
  /-- F000 NNNN: load I with 16 bits, the one 4-byte form (R134). -/
  | ldILong (nnnn : Word)
  /-- FX01: select the planes (R126). -/
  | plane (x : Reg)
  /-- FX07: read the delay timer (R130). -/
  | ldVxDt (x : Reg)
  /-- FX0A: wait for a key (R129). -/
  | ldVxK (x : Reg)
  /-- FX15: set the delay timer (R131). -/
  | ldDtVx (x : Reg)
  /-- FX18: set the sound timer (R132). -/
  | ldStVx (x : Reg)
  /-- FX1E: add to I (R135). -/
  | addI (x : Reg)
  /-- FX29: small-font glyph (R136). -/
  | ldF (x : Reg)
  /-- FX30: big-font glyph (R137). -/
  | ldHf (x : Reg)
  /-- FX33: decimal digits (R138). -/
  | ldB (x : Reg)
  /-- FX55: store V0..VX (R139). -/
  | storeRegs (x : Reg)
  /-- FX65: load V0..VX (R140). -/
  | loadRegs (x : Reg)
  /-- FX75: persist V0..VX to the flag bank (R143). -/
  | saveFlags (x : Reg)
  /-- FX85: restore V0..VX from the flag bank (R144). -/
  | restoreFlags (x : Reg)
  deriving DecidableEq, Repr

/-- The decoder's Instruction record (R78): ephemeral, never state. The fields G, X, Y, N, NN and NNN are slices of
`opcode` (Decode.lean). -/
structure DecodedRecord where
  /-- The raw first word. -/
  opcode : Word
  /-- 2 or 4 bytes. -/
  length : Nat
  /-- The second word, present only when the length is 4. -/
  nnnn : Option Word
  /-- The row of R70 with its operands, or none for Unknown. -/
  tag : Option Instr
  deriving DecidableEq, Repr

end Sys2Proof
end

