-- ==== Sys2Proof/Decode.lean ====
section
/-! DEFINITION. The decoder (30_encoding R64–R79), total on any bytes and refusing by name, the opcode table as rows of
mask and match (R70), and the encoder written from the same table. -/

namespace Sys2Proof

/-! ## Fields of the first word (R65) -/

/-- The group selector, bits 15:12. -/
def fieldG (w : Word) : BitVec 4 := w.extractLsb' 12 4

/-- The first register selector, bits 11:8. -/
def fieldX (w : Word) : Reg := w.extractLsb' 8 4

/-- The second register selector, bits 7:4. -/
def fieldY (w : Word) : Reg := w.extractLsb' 4 4

/-- The 4-bit literal, bits 3:0. -/
def fieldN (w : Word) : Nibble := w.extractLsb' 0 4

/-- The 8-bit literal, bits 7:0. -/
def fieldNN (w : Word) : Byte := w.extractLsb' 0 8

/-- The 12-bit address literal, bits 11:0. -/
def fieldNNN (w : Word) : Addr12 := w.extractLsb' 0 12

/-- The word of two bytes, the byte at the lower address in bits 15:8 (20_memory R50). -/
def wordOfBytes (hi lo : Byte) : Word := hi ++ lo

/-- The two bytes of a word as memory holds them, the high one first (R50). -/
def bytesOfWord (w : Word) : List Byte := [w.extractLsb' 8 8, w.extractLsb' 0 8]

/-- The one word whose instruction has four bytes (R66). -/
def longWord : Word := 0xF000#16

/-- The length in bytes, found from the first word alone (R69). -/
def instrLength (w : Word) : Nat := if w = longWord then 4 else 2

/-! ## Classification (R71–R77) -/

/-- Why the decoder refuses. -/
inductive DecodeError where
  /-- Fewer bytes than the instruction has. -/
  | truncated
  /-- The word is of no row of R70: the tag Unknown (R77). -/
  | unknown (w : Word)
  deriving DecidableEq, Repr

/-- Group 0: bits 11:8 are zero and the low byte decides (R71). -/
def classify0 (w : Word) : Except DecodeError Instr :=
  if fieldX w ≠ 0 then .error (.unknown w)
  else if fieldY w = 0xC then .ok (.scd (fieldN w))
  else if fieldY w = 0xD then .ok (.scu (fieldN w))
  else if fieldNN w = 0xE0 then .ok .cls
  else if fieldNN w = 0xEE then .ok .ret
  else if fieldNN w = 0xFB then .ok .scr
  else if fieldNN w = 0xFC then .ok .scl
  else if fieldNN w = 0xFD then .ok .exit
  else if fieldNN w = 0xFE then .ok .lores
  else if fieldNN w = 0xFF then .ok .hires
  else .error (.unknown w)

/-- Group 5: N decides (R72). -/
def classify5 (w : Word) : Except DecodeError Instr :=
  if fieldN w = 0 then .ok (.seReg (fieldX w) (fieldY w))
  else if fieldN w = 2 then .ok (.save (fieldX w) (fieldY w))
  else if fieldN w = 3 then .ok (.load (fieldX w) (fieldY w))
  else .error (.unknown w)

/-- Group 8: N decides (R73). -/
def classify8 (w : Word) : Except DecodeError Instr :=
  if fieldN w = 0 then .ok (.ldReg (fieldX w) (fieldY w))
  else if fieldN w = 1 then .ok (.orReg (fieldX w) (fieldY w))
  else if fieldN w = 2 then .ok (.andReg (fieldX w) (fieldY w))
  else if fieldN w = 3 then .ok (.xorReg (fieldX w) (fieldY w))
  else if fieldN w = 4 then .ok (.addReg (fieldX w) (fieldY w))
  else if fieldN w = 5 then .ok (.sub (fieldX w) (fieldY w))
  else if fieldN w = 6 then .ok (.shr (fieldX w) (fieldY w))
  else if fieldN w = 7 then .ok (.subn (fieldX w) (fieldY w))
  else if fieldN w = 0xE then .ok (.shl (fieldX w) (fieldY w))
  else .error (.unknown w)

/-- Group 9: N must be zero (R74). -/
def classify9 (w : Word) : Except DecodeError Instr :=
  if fieldN w = 0 then .ok (.sneReg (fieldX w) (fieldY w)) else .error (.unknown w)

/-- Group E: the low byte decides (R75). -/
def classifyE (w : Word) : Except DecodeError Instr :=
  if fieldNN w = 0x9E then .ok (.skp (fieldX w))
  else if fieldNN w = 0xA1 then .ok (.sknp (fieldX w))
  else .error (.unknown w)

/-- Group F: the exact word first, then the low byte (R76). -/
def classifyF (w nnnn : Word) : Except DecodeError Instr :=
  if w = longWord then .ok (.ldILong nnnn)
  else if fieldNN w = 0x01 then .ok (.plane (fieldX w))
  else if fieldNN w = 0x07 then .ok (.ldVxDt (fieldX w))
  else if fieldNN w = 0x0A then .ok (.ldVxK (fieldX w))
  else if fieldNN w = 0x15 then .ok (.ldDtVx (fieldX w))
  else if fieldNN w = 0x18 then .ok (.ldStVx (fieldX w))
  else if fieldNN w = 0x1E then .ok (.addI (fieldX w))
  else if fieldNN w = 0x29 then .ok (.ldF (fieldX w))
  else if fieldNN w = 0x30 then .ok (.ldHf (fieldX w))
  else if fieldNN w = 0x33 then .ok (.ldB (fieldX w))
  else if fieldNN w = 0x55 then .ok (.storeRegs (fieldX w))
  else if fieldNN w = 0x65 then .ok (.loadRegs (fieldX w))
  else if fieldNN w = 0x75 then .ok (.saveFlags (fieldX w))
  else if fieldNN w = 0x85 then .ok (.restoreFlags (fieldX w))
  else .error (.unknown w)

/-- The tag of a first word `w` with the second word `nnnn`, which only F000 uses: a pure function of the group
selector and then of the low fields (R77, R79). -/
def classify (w nnnn : Word) : Except DecodeError Instr :=
  match fieldG w with
  | 0x0#4 => classify0 w
  | 0x1#4 => .ok (.jp (fieldNNN w))
  | 0x2#4 => .ok (.call (fieldNNN w))
  | 0x3#4 => .ok (.seImm (fieldX w) (fieldNN w))
  | 0x4#4 => .ok (.sneImm (fieldX w) (fieldNN w))
  | 0x5#4 => classify5 w
  | 0x6#4 => .ok (.ldImm (fieldX w) (fieldNN w))
  | 0x7#4 => .ok (.addImm (fieldX w) (fieldNN w))
  | 0x8#4 => classify8 w
  | 0x9#4 => classify9 w
  | 0xA#4 => .ok (.ldI (fieldNNN w))
  | 0xB#4 => .ok (.jpOffset (fieldNNN w))
  | 0xC#4 => .ok (.rnd (fieldX w) (fieldNN w))
  | 0xD#4 => .ok (.drw (fieldX w) (fieldY w) (fieldN w))
  | 0xE#4 => classifyE w
  | _ => classifyF w nnnn

/-- The Instruction record of a first word and the word after it (R78). -/
def decodeRecord (w next : Word) : DecodedRecord :=
  { opcode := w
    length := instrLength w
    nnnn := if instrLength w = 4 then some next else none
    tag := (classify w next).toOption }

/-- Read one instruction from the front of a list of bytes and answer it with the bytes after it (R64–R66, R50). -/
def decode : List Byte → Except DecodeError (Instr × List Byte)
  | b0 :: b1 :: rest =>
    if instrLength (wordOfBytes b0 b1) = 4 then
      match rest with
      | b2 :: b3 :: rest' => (classify (wordOfBytes b0 b1) (wordOfBytes b2 b3)).map fun i => (i, rest')
      | _ => .error .truncated
    else (classify (wordOfBytes b0 b1) 0).map fun i => (i, rest)
  | _ => .error .truncated

/-! ## Encoding (R70) -/

/-- A word with the group, X, Y and N fields given. -/
def wordXYN (g : BitVec 4) (x y : Reg) (n : Nibble) : Word := g ++ x ++ y ++ n

/-- A word with the group, X and NN fields given. -/
def wordXNN (g : BitVec 4) (x : Reg) (nn : Byte) : Word := g ++ x ++ nn

/-- A word with the group and NNN fields given. -/
def wordNNN (g : BitVec 4) (nnn : Addr12) : Word := g ++ nnn

/-- The words of an instruction: its pattern in the table of R70. -/
def encode : Instr → List Word
  | .scd n => [wordXYN 0x0 0x0 0xC n]
  | .scu n => [wordXYN 0x0 0x0 0xD n]
  | .cls => [0x00E0#16]
  | .ret => [0x00EE#16]
  | .scr => [0x00FB#16]
  | .scl => [0x00FC#16]
  | .exit => [0x00FD#16]
  | .lores => [0x00FE#16]
  | .hires => [0x00FF#16]
  | .jp nnn => [wordNNN 0x1 nnn]
  | .call nnn => [wordNNN 0x2 nnn]
  | .seImm x nn => [wordXNN 0x3 x nn]
  | .sneImm x nn => [wordXNN 0x4 x nn]
  | .seReg x y => [wordXYN 0x5 x y 0x0]
  | .save x y => [wordXYN 0x5 x y 0x2]
  | .load x y => [wordXYN 0x5 x y 0x3]
  | .ldImm x nn => [wordXNN 0x6 x nn]
  | .addImm x nn => [wordXNN 0x7 x nn]
  | .ldReg x y => [wordXYN 0x8 x y 0x0]
  | .orReg x y => [wordXYN 0x8 x y 0x1]
  | .andReg x y => [wordXYN 0x8 x y 0x2]
  | .xorReg x y => [wordXYN 0x8 x y 0x3]
  | .addReg x y => [wordXYN 0x8 x y 0x4]
  | .sub x y => [wordXYN 0x8 x y 0x5]
  | .shr x y => [wordXYN 0x8 x y 0x6]
  | .subn x y => [wordXYN 0x8 x y 0x7]
  | .shl x y => [wordXYN 0x8 x y 0xE]
  | .sneReg x y => [wordXYN 0x9 x y 0x0]
  | .ldI nnn => [wordNNN 0xA nnn]
  | .jpOffset nnn => [wordNNN 0xB nnn]
  | .rnd x nn => [wordXNN 0xC x nn]
  | .drw x y n => [wordXYN 0xD x y n]
  | .skp x => [wordXNN 0xE x 0x9E]
  | .sknp x => [wordXNN 0xE x 0xA1]
  | .ldILong nnnn => [longWord, nnnn]
  | .plane x => [wordXNN 0xF x 0x01]
  | .ldVxDt x => [wordXNN 0xF x 0x07]
  | .ldVxK x => [wordXNN 0xF x 0x0A]
  | .ldDtVx x => [wordXNN 0xF x 0x15]
  | .ldStVx x => [wordXNN 0xF x 0x18]
  | .addI x => [wordXNN 0xF x 0x1E]
  | .ldF x => [wordXNN 0xF x 0x29]
  | .ldHf x => [wordXNN 0xF x 0x30]
  | .ldB x => [wordXNN 0xF x 0x33]
  | .storeRegs x => [wordXNN 0xF x 0x55]
  | .loadRegs x => [wordXNN 0xF x 0x65]
  | .saveFlags x => [wordXNN 0xF x 0x75]
  | .restoreFlags x => [wordXNN 0xF x 0x85]

/-- The bytes of an instruction as memory holds them (R50). -/
def encodeBytes (i : Instr) : List Byte := (encode i).flatMap bytesOfWord

/-! ## The opcode table as data (R70) -/

/-- One row of R70: a word matches it when `w & mask = value`. -/
structure OpcodeRow where
  value : Word
  mask : Word
  deriving DecidableEq, Repr

/-- Does the word match the row (R70)? -/
def OpcodeRow.hit (r : OpcodeRow) (w : Word) : Bool := w &&& r.mask == r.value

/-- The row of R70 that an instruction stands for: its match and mask columns. -/
def rowOf : Instr → OpcodeRow
  | .scd _ => ⟨0x00C0, 0xFFF0⟩
  | .scu _ => ⟨0x00D0, 0xFFF0⟩
  | .cls => ⟨0x00E0, 0xFFFF⟩
  | .ret => ⟨0x00EE, 0xFFFF⟩
  | .scr => ⟨0x00FB, 0xFFFF⟩
  | .scl => ⟨0x00FC, 0xFFFF⟩
  | .exit => ⟨0x00FD, 0xFFFF⟩
  | .lores => ⟨0x00FE, 0xFFFF⟩
  | .hires => ⟨0x00FF, 0xFFFF⟩
  | .jp _ => ⟨0x1000, 0xF000⟩
  | .call _ => ⟨0x2000, 0xF000⟩
  | .seImm _ _ => ⟨0x3000, 0xF000⟩
  | .sneImm _ _ => ⟨0x4000, 0xF000⟩
  | .seReg _ _ => ⟨0x5000, 0xF00F⟩
  | .save _ _ => ⟨0x5002, 0xF00F⟩
  | .load _ _ => ⟨0x5003, 0xF00F⟩
  | .ldImm _ _ => ⟨0x6000, 0xF000⟩
  | .addImm _ _ => ⟨0x7000, 0xF000⟩
  | .ldReg _ _ => ⟨0x8000, 0xF00F⟩
  | .orReg _ _ => ⟨0x8001, 0xF00F⟩
  | .andReg _ _ => ⟨0x8002, 0xF00F⟩
  | .xorReg _ _ => ⟨0x8003, 0xF00F⟩
  | .addReg _ _ => ⟨0x8004, 0xF00F⟩
  | .sub _ _ => ⟨0x8005, 0xF00F⟩
  | .shr _ _ => ⟨0x8006, 0xF00F⟩
  | .subn _ _ => ⟨0x8007, 0xF00F⟩
  | .shl _ _ => ⟨0x800E, 0xF00F⟩
  | .sneReg _ _ => ⟨0x9000, 0xF00F⟩
  | .ldI _ => ⟨0xA000, 0xF000⟩
  | .jpOffset _ => ⟨0xB000, 0xF000⟩
  | .rnd _ _ => ⟨0xC000, 0xF000⟩
  | .drw _ _ _ => ⟨0xD000, 0xF000⟩
  | .skp _ => ⟨0xE09E, 0xF0FF⟩
  | .sknp _ => ⟨0xE0A1, 0xF0FF⟩
  | .ldILong _ => ⟨0xF000, 0xFFFF⟩
  | .plane _ => ⟨0xF001, 0xF0FF⟩
  | .ldVxDt _ => ⟨0xF007, 0xF0FF⟩
  | .ldVxK _ => ⟨0xF00A, 0xF0FF⟩
  | .ldDtVx _ => ⟨0xF015, 0xF0FF⟩
  | .ldStVx _ => ⟨0xF018, 0xF0FF⟩
  | .addI _ => ⟨0xF01E, 0xF0FF⟩
  | .ldF _ => ⟨0xF029, 0xF0FF⟩
  | .ldHf _ => ⟨0xF030, 0xF0FF⟩
  | .ldB _ => ⟨0xF033, 0xF0FF⟩
  | .storeRegs _ => ⟨0xF055, 0xF0FF⟩
  | .loadRegs _ => ⟨0xF065, 0xF0FF⟩
  | .saveFlags _ => ⟨0xF075, 0xF0FF⟩
  | .restoreFlags _ => ⟨0xF085, 0xF0FF⟩

/-- One instruction of each row of R70, in the table's order. -/
def oneOfEachRow : List Instr :=
  [.scd 0, .scu 0, .cls, .ret, .scr, .scl, .exit, .lores, .hires, .jp 0, .call 0, .seImm 0 0] ++
  [.sneImm 0 0, .seReg 0 0, .save 0 0, .load 0 0, .ldImm 0 0, .addImm 0 0, .ldReg 0 0, .orReg 0 0] ++
  [.andReg 0 0, .xorReg 0 0, .addReg 0 0, .sub 0 0, .shr 0 0, .subn 0 0, .shl 0 0, .sneReg 0 0] ++
  [.ldI 0, .jpOffset 0, .rnd 0 0, .drw 0 0 0, .skp 0, .sknp 0, .ldILong 0, .plane 0, .ldVxDt 0] ++
  [.ldVxK 0, .ldDtVx 0, .ldStVx 0, .addI 0, .ldF 0, .ldHf 0, .ldB 0, .storeRegs 0, .loadRegs 0] ++
  [.saveFlags 0, .restoreFlags 0]

/-- The 48 rows of R70. -/
def opcodeTable : List OpcodeRow := oneOfEachRow.map rowOf

/-! ## The host's numbering of an instruction's bits -/

/-- The four bytes at an instruction's place whose first `nbits` bits are `w`, bit 0 the least significant bit of the
first word and the second word's bits counting on from 16; every bit above `nbits` is zero. -/
def tableBytes (nbits w : Nat) : List Byte :=
  bytesOfWord (BitVec.ofNat 16 (w % 2 ^ nbits)) ++ bytesOfWord (BitVec.ofNat 16 (w % 2 ^ nbits / 2 ^ 16))

/-- The instruction this decoder reads from bits the opcode table numbers. -/
def decodeTableWord (nbits w : Nat) : Option Instr :=
  match decode (tableBytes nbits w) with
  | .ok (i, _) => some i
  | .error _ => none

end Sys2Proof
end

