-- ==== Sys2Proof/Config.lean ====
section
/-! DEFINITION. What an implementation fixes (00_scope R5, the "parameter" rows) and the free values (41_alu R110). -/

namespace Sys2Proof

/-- Which register BNNN adds (R5 `JUMP_OFFSET_REG`, R91). -/
inductive JumpOffsetReg where
  | vx
  | v0
  deriving DecidableEq, Repr

/-- The named parameters of rule R5. A model takes them as arguments: they ride in the state (log entry 1) and no step
changes them. -/
structure Params where
  /-- `STACK_DEPTH`, at least 16. -/
  stackDepth : Nat
  /-- `JUMP_OFFSET_REG`. -/
  jumpOffsetReg : JumpOffsetReg
  /-- `FONT_SMALL_BASE`, with `FONT_SMALL_BASE + 240 ≤ 0x200` (R168). -/
  fontSmallBase : Nat
  /-- `FONT_SMALL`: 16 glyphs of 5 bytes. -/
  fontSmall : Vector Byte 80
  /-- `FONT_BIG`: 16 glyphs of 10 bytes. -/
  fontBig : Vector Byte 160
  deriving DecidableEq, Repr

/-- `RandomByte()` of rules R8 and R110: the byte of the n-th draw. It has no body: nothing is known of any of its
values (log entry 3, safe). -/
opaque Config.randomByte : Nat → Byte

end Sys2Proof
end

