-- ==== Sys2Proof/WellFormed.lean ====
section
/-! DEFINITION. What must hold of the data a model is set up with. An instruction needs no check of its own: each field
of `Instr` has exactly the width of its bits, and the spec makes all their values valid (30_encoding R67, R68). What can
be ill formed is a set of parameters and a program image. -/

namespace Sys2Proof

/-- `STACK_DEPTH` is an integer of at least 16 (R5). -/
def Params.depthOk (p : Params) : Bool := decide (16 ≤ p.stackDepth)

/-- The font tables end at or below the load address (R168). -/
def Params.fontsOk (p : Params) : Bool := decide (p.fontSmallBase + 240 ≤ 0x200)

/-- The parameters are ones rule R5 allows. -/
def Params.wf (p : Params) : Bool := p.depthOk && p.fontsOk

/-- The image fits between 0x200 and 0xFFFF: at most 0xFE00 bytes (R169). -/
def imageFits (image : List Byte) : Bool := decide (image.length ≤ 0xFE00)

end Sys2Proof
end

