-- ==== Sys2Proof/Machine/Parameters.lean ====
section
/-! DEFINITION. The spec's default parameters (00_scope R5, 70_reset R168) and what is derived from a set of parameters:
the base of the big font and the contents of memory after `init`. -/

namespace Sys2Proof.Machine

/-- Default `FONT_SMALL`, digits 0 to F, five bytes each (R168). -/
def defaultFontSmall : Vector Byte 80 := #v[
  0xF0, 0x90, 0x90, 0x90, 0xF0,  0x20, 0x60, 0x20, 0x20, 0x70,
  0xF0, 0x10, 0xF0, 0x80, 0xF0,  0xF0, 0x10, 0xF0, 0x10, 0xF0,
  0x90, 0x90, 0xF0, 0x10, 0x10,  0xF0, 0x80, 0xF0, 0x10, 0xF0,
  0xF0, 0x80, 0xF0, 0x90, 0xF0,  0xF0, 0x10, 0x20, 0x40, 0x40,
  0xF0, 0x90, 0xF0, 0x90, 0xF0,  0xF0, 0x90, 0xF0, 0x10, 0xF0,
  0xF0, 0x90, 0xF0, 0x90, 0x90,  0xE0, 0x90, 0xE0, 0x90, 0xE0,
  0xF0, 0x80, 0x80, 0x80, 0xF0,  0xE0, 0x90, 0x90, 0x90, 0xE0,
  0xF0, 0x80, 0xF0, 0x80, 0xF0,  0xF0, 0x80, 0xF0, 0x80, 0x80]

/-- Default `FONT_BIG`, digits 0 to F, ten bytes each (R168). -/
def defaultFontBig : Vector Byte 160 := #v[
  0x3C, 0x7E, 0xE7, 0xC3, 0xC3, 0xC3, 0xC3, 0xE7, 0x7E, 0x3C,
  0x18, 0x38, 0x58, 0x18, 0x18, 0x18, 0x18, 0x18, 0x18, 0x3C,
  0x3E, 0x7F, 0xC3, 0x06, 0x0C, 0x18, 0x30, 0x60, 0xFF, 0xFF,
  0x3C, 0x7E, 0xC3, 0x03, 0x0E, 0x0E, 0x03, 0xC3, 0x7E, 0x3C,
  0x06, 0x0E, 0x1E, 0x36, 0x66, 0xC6, 0xFF, 0xFF, 0x06, 0x06,
  0xFF, 0xFF, 0xC0, 0xC0, 0xFC, 0xFE, 0x03, 0xC3, 0x7E, 0x3C,
  0x3E, 0x7C, 0xC0, 0xC0, 0xFC, 0xFE, 0xC3, 0xC3, 0x7E, 0x3C,
  0xFF, 0xFF, 0x03, 0x06, 0x0C, 0x18, 0x30, 0x60, 0x60, 0x60,
  0x3C, 0x7E, 0xC3, 0xC3, 0x7E, 0x7E, 0xC3, 0xC3, 0x7E, 0x3C,
  0x3C, 0x7E, 0xC3, 0xC3, 0x7F, 0x3F, 0x03, 0x03, 0x3E, 0x7C,
  0x7E, 0xFF, 0xC3, 0xC3, 0xC3, 0xFF, 0xFF, 0xC3, 0xC3, 0xC3,
  0xFC, 0xFC, 0xC3, 0xC3, 0xFC, 0xFC, 0xC3, 0xC3, 0xFC, 0xFC,
  0x3C, 0xFF, 0xC3, 0xC0, 0xC0, 0xC0, 0xC0, 0xC3, 0xFF, 0x3C,
  0xFC, 0xFE, 0xC3, 0xC3, 0xC3, 0xC3, 0xC3, 0xC3, 0xFE, 0xFC,
  0xFF, 0xFF, 0xC0, 0xC0, 0xFF, 0xFF, 0xC0, 0xC0, 0xFF, 0xFF,
  0xFF, 0xFF, 0xC0, 0xC0, 0xFF, 0xFF, 0xC0, 0xC0, 0xC0, 0xC0]

/-- The defaults of rule R5. -/
def defaultParams : Params :=
  { stackDepth := 16
    jumpOffsetReg := .vx
    fontSmallBase := 0x000
    fontSmall := defaultFontSmall
    fontBig := defaultFontBig }

/-- `LOAD_ADDR`, which is also the reset vector (R5, R39, R170). -/
def loadAddr : Nat := 0x200

/-- `RESET_PLANE_MASK` (R5, R43). -/
def resetPlaneMask : BitVec 2 := 1

/-- `FONT_BIG_BASE = FONT_SMALL_BASE + 80` (R5). -/
def fontBigBase (p : Params) : Nat := p.fontSmallBase + 80

/-- The byte `init` leaves at an address: the small font, the big font right after it, and zero everywhere else
(R167, R168, R56). This is what an address that memory does not list reads as. -/
def resetByte (p : Params) (a : Nat) : Byte :=
  if a < p.fontSmallBase then 0
  else if h : a - p.fontSmallBase < 80 then p.fontSmall[a - p.fontSmallBase]
  else if h : a - fontBigBase p < 160 then p.fontBig[a - fontBigBase p]
  else 0

end Sys2Proof.Machine
end

