-- ==== Sys2Proof/Machine/Memory.lean ====
section
/-! DEFINITION. The flat memory of 65536 bytes (20_memory R45, R46, R48) as a list of (address, byte) pairs in one
canonical form: addresses strictly rising, all below 65536, and no entry equal to what `init` left there. -/

namespace Sys2Proof.Machine

/-- The bytes that differ from those `init` left. -/
abbrev Memory := List Host.Cell

/-- `memory[a]`: the value most recently written, or the one `init` left (R48). -/
def Memory.read (p : Params) : Memory → Nat → Byte
  | [], a => resetByte p a
  | (k, v) :: m, a => if k = a then v else Memory.read p m a

/-- `m` without an entry for `a`. -/
def Memory.erase (a : Nat) (m : Memory) : Memory := m.filter fun c => c.1 != a

/-- `m` with the entry (a, v) before the first higher address. -/
def Memory.insert (a : Nat) (v : Byte) : Memory → Memory
  | [] => [(a, v)]
  | (k, u) :: m => if a < k then (a, v) :: (k, u) :: m else (k, u) :: Memory.insert a v m

/-- `memory[a] <- v`, keeping the canonical form: no entry when `a` reads as `v` without one (R47, R48). -/
def Memory.write (p : Params) (a : Nat) (v : Byte) (m : Memory) : Memory :=
  if v = resetByte p a then Memory.erase a m else Memory.insert a v (Memory.erase a m)

/-- The canonical form: strictly rising addresses inside the address space, no entry that says what an unlisted address
says. -/
def Memory.wf (p : Params) (m : Memory) : Bool :=
  decide (m.Pairwise fun c d => c.1 < d.1) && m.all fun c => decide (c.1 ≤ maxAddr) && c.2 != resetByte p c.1

end Sys2Proof.Machine
end

