-- ==== Sys2Proof/Machine/State.lean ====
section
/-! DEFINITION. The Machine State of 10_state (R15–R44), as plain data, its reset value, and the reasons a step can
stop. -/

namespace Sys2Proof.Machine

/-- The two display planes (R12, R31). -/
inductive PlaneId where
  | one
  | two
  deriving DecidableEq, Repr

/-- One bit-plane: 64 rows of 128 pixels. Bit x of row y is the pixel at column x, row y. -/
abbrev PlaneBits := Vector (BitVec 128) 64

/-- The display buffer of 128 × 64 cells (R31, R32), held as its two bit-planes: bit 0 of a cell is its bit of plane 1,
bit 1 its bit of plane 2. -/
structure Display where
  plane1 : PlaneBits
  plane2 : PlaneBits
  deriving DecidableEq, Repr

/-- A plane with no pixel lit. -/
def darkPlane : PlaneBits := Vector.replicate 64 0

/-- A display with no pixel lit. -/
def Display.dark : Display := { plane1 := darkPlane, plane2 := darkPlane }

/-- What an out-of-range address was to be used for (R150). -/
inductive AccessKind where
  | fetch
  | pc
  | read
  | write
  deriving DecidableEq, Repr

/-- The fault kinds of R146 with their info. They are state (`halt_reason`), not outcomes of a step. -/
inductive FaultKind where
  /-- The word of no row of R70 and its address (R147). -/
  | unknownOpcode (opcode : Word) (addr : Word)
  /-- A CALL with the stack full (R148). -/
  | stackOverflow (addr : Word)
  /-- A RET with the stack empty (R149). -/
  | stackUnderflow (addr : Word)
  /-- The first address or `pc` value out of range; a natural number, not wrapped (R150, R47). -/
  | outOfBounds (kind : AccessKind) (addr : Nat)
  deriving DecidableEq, Repr

/-- Why the engine halted (R29, R146). -/
inductive HaltReason where
  /-- The clean halt of 00FD (R151). -/
  | exit
  /-- A fault; `at_` is the address the step fetched from (R146). -/
  | fault (kind : FaultKind) (at_ : Word)
  deriving DecidableEq, Repr

/-- The Machine State (R35), and beside it what rule R34 makes an input or a parameter of the step relation. -/
structure State where
  /-- Memory: the bytes that differ from those `init` left (R45). -/
  mem : Memory
  /-- The display buffer (R31). -/
  display : Display
  /-- V0–VF (R15). -/
  v : Vector Byte 16
  /-- The flag-register bank (R25). -/
  flags : Vector Byte 16
  /-- The index register I (R17). -/
  i : Word
  /-- The program counter (R18). -/
  pc : Word
  /-- The return stack, `STACK_DEPTH` entries, index 0 first (R20). -/
  stack : List Word
  /-- How many entries are pushed (R21). -/
  sp : Nat
  /-- The delay timer (R22). -/
  dt : Byte
  /-- The sound timer (R23). -/
  st : Byte
  /-- The selected planes: bit 0 plane 1, bit 1 plane 2 (R26). -/
  planeMask : BitVec 2
  /-- High resolution (R27). -/
  hires : Bool
  /-- The dirty flag (R33). -/
  redraw : Bool
  /-- The engine has halted (R28, R29). -/
  halted : Bool
  /-- Why, or none while not halted (R29). -/
  haltReason : Option HaltReason
  /-- The register a key-wait will write, or none (R30). -/
  waiting : Option Reg
  /-- The model's own: the parameters of R5, which no step changes (log entry 1). -/
  params : Params
  /-- The model's own: the key snapshot of the coming step, key k pressed when entry k is true (R161, log entry 2). -/
  keys : Vector Bool 16
  /-- The model's own: how many random bytes have been drawn (R110, log entry 3). -/
  draws : Nat
  deriving DecidableEq, Repr

/-- How a step stops outside the spec's own halts. Every error the spec names is an entry into `Halted` that it
describes (R146–R152), so it is a next state and not one of these. -/
inductive Fault where
  /-- `sp` names a slot that the stack array does not have. Raised by CALL and RET only, and only in a state whose
  `stack` and `sp` contradict rules R20 and R21; no step from a state that meets the invariant raises it. Safe. -/
  | noStackSlot
  deriving DecidableEq, Repr

/-- What has no meaning. -/
inductive Refusal where
  /-- An instruction that has no meaning yet, by its mnemonic. Raised by `exec` alone. Safe. -/
  | notModelled (mnemonic : String)
  /-- The host loads an image of more than 0xFE00 bytes: no state change (R169). Raised by a host session. Safe. -/
  | imageTooLarge
  /-- The host loads a second time after `init`, or after the first step, where `load` has no meaning (R171, R166, U11).
  Raised by a host session. Safe. -/
  | loadNotAllowed
  deriving DecidableEq, Repr

/-- What a step or a meaning answers. -/
abbrev Result := Host.Outcome State Fault Refusal

/-- The state `init` leaves (R167, R37–R44) under parameters `p`, with the key snapshot and the count of draws given. -/
def State.initial (p : Params) (keys : Vector Bool 16) (draws : Nat) : State :=
  { mem := []
    display := Display.dark
    v := Vector.replicate 16 0
    flags := Vector.replicate 16 0
    i := 0
    pc := BitVec.ofNat 16 loadAddr
    stack := List.replicate p.stackDepth 0
    sp := 0
    dt := 0
    st := 0
    planeMask := resetPlaneMask
    hires := false
    redraw := false
    halted := false
    haltReason := none
    waiting := none
    params := p
    keys := keys
    draws := draws }

/-- The machine right after reset: `init` under the spec's default parameters, no key pressed, no byte drawn. -/
def State.reset : State := State.initial defaultParams (Vector.replicate 16 false) 0

end Sys2Proof.Machine
end

