-- ==== Sys2Proof/Machine/Ops.lean ====
section
/-! DEFINITION. The named operations over registers, memory, the stack and the run state that the instruction rules are
written with (00_scope R8–R10), and the one operation that takes a fault (60_exceptions R152). -/

namespace Sys2Proof.Machine

/-! ## Registers (R8, R15, R25) -/

/-- `V[r]`. -/
def State.getV (s : State) (r : Reg) : Byte := s.v.get r.toFin

/-- `V[r] <- b`. -/
def State.setV (s : State) (r : Reg) (b : Byte) : State := { s with v := s.v.set r.toNat b r.isLt }

/-- `flags[r]`. -/
def State.getFlag (s : State) (r : Reg) : Byte := s.flags.get r.toFin

/-- `flags[r] <- b`. -/
def State.setFlag (s : State) (r : Reg) (b : Byte) : State := { s with flags := s.flags.set r.toNat b r.isLt }

/-- `I <- w`. -/
def State.setI (s : State) (w : Word) : State := { s with i := w }

/-- `pc <- w`. -/
def State.setPc (s : State) (w : Word) : State := { s with pc := w }

/-- `DT <- b`. -/
def State.setDt (s : State) (b : Byte) : State := { s with dt := b }

/-- `ST <- b`. -/
def State.setSt (s : State) (b : Byte) : State := { s with st := b }

/-- `plane_mask <- m`. -/
def State.setPlaneMask (s : State) (m : BitVec 2) : State := { s with planeMask := m }

/-- Replace the display and set `redraw` (R33). -/
def State.present (s : State) (d : Display) : State := { s with display := d, redraw := true }

/-- `hires <- b`, the whole array cleared in both planes, `redraw` set (R124, R125). -/
def State.setResolution (s : State) (b : Bool) : State :=
  { s with hires := b, display := Display.dark, redraw := true }

/-- `waiting_register <- r` (R129). -/
def State.waitFor (s : State) (r : Reg) : State := { s with waiting := some r }

/-- Is key k pressed in this step's snapshot (R161)? -/
def State.pressed (s : State) (k : Nibble) : Bool := s.keys.get k.toFin

/-- One random byte drawn: the n-th free byte, and the count advanced so that each draw is a fresh one (R110). -/
def State.drawByte (s : State) : Byte × State := (Config.randomByte s.draws, { s with draws := s.draws + 1 })

/-! ## Memory (R47, R49, R50) -/

/-- `memory[a]`. -/
def State.byteAt (s : State) (a : Nat) : Byte := Memory.read s.params s.mem a

/-- `memory[a] <- b`. -/
def State.setByte (s : State) (a : Nat) (b : Byte) : State := { s with mem := Memory.write s.params a b s.mem }

/-- `Fetch16(a)`, the byte at the lower address in bits 15:8 (R50). -/
def State.fetch16 (s : State) (a : Nat) : Word := wordOfBytes (s.byteAt a) (s.byteAt (a + 1))

/-- Read `n` bytes from `a` upward, one address each (R49). -/
def State.bytesFrom (s : State) (a : Nat) : Nat → List Byte
  | 0 => []
  | n + 1 => s.byteAt a :: s.bytesFrom (a + 1) n

/-- Write bytes from `a` upward, one address each, in ascending order (R49). -/
def State.setBytes (s : State) (a : Nat) : List Byte → State
  | [] => s
  | b :: bs => (s.setByte a b).setBytes (a + 1) bs

/-! ## Faults and halting (R9, R29, R152) -/

/-- `raise F(info)`: the one way a fault is taken. The engine halts with the reason recorded, `at_` being the address
the step fetched from, and nothing else changes. The return from it is `init` alone (HostOps.lean, R153). -/
def State.raise (s : State) (kind : FaultKind) (at_ : Word) : State :=
  { s with halted := true, haltReason := some (.fault kind at_) }

/-- The clean halt (R96, R151). -/
def State.halt (s : State) : State := { s with halted := true, haltReason := some .exit }

/-- `A`, the address the running 2-byte instruction was fetched from: `pc` already holds A + 2 (R11, R82). -/
def State.fetchedFrom (s : State) : Word := s.pc - 2

/-- `check a <= 0xFFFF else OutOfBounds(kind, a)`, and then the rest of the rule (R10, R47). -/
def State.checkBound (s : State) (kind : AccessKind) (a : Nat) (rest : Result) : Result :=
  if a ≤ maxAddr then rest else .next (s.raise (.outOfBounds kind a) s.fetchedFrom)

/-! ## The program counter (R19, R88, R127) -/

/-- `check pc + n <= 0xFFFF else OutOfBounds(pc, pc + n); pc <- pc + n`. -/
def State.advance (s : State) (n : Nat) : Result :=
  s.checkBound .pc (s.pc.toNat + n) (.next (s.setPc (BitVec.ofNat 16 (s.pc.toNat + n))))

/-- `SkipNext` (R88): skip the next instruction, 2 or 4 bytes, looking only at its length. -/
def State.skipNext (s : State) : Result :=
  s.checkBound .fetch (s.pc.toNat + 1) (s.advance (instrLength (s.fetch16 s.pc.toNat)))

/-- A conditional skip: `if c then SkipNext()`. The look-ahead is made only when the condition holds (R88). -/
def State.skipIf (s : State) (c : Bool) : Result := if c then s.skipNext else .next s

/-- A key skip: `if c then` skip exactly 2 bytes, whatever stands there (R127, R174). -/
def State.skipTwoIf (s : State) (c : Bool) : Result := if c then s.advance 2 else .next s

/-! ## The return stack (R20, R21, R87, R89) -/

/-- `stack[sp] <- w; sp <- sp + 1`, or none when the array has no such slot. -/
def State.push (s : State) (w : Word) : Option State :=
  if s.sp < s.stack.length then some { s with stack := s.stack.set s.sp w, sp := s.sp + 1 } else none

/-- `sp <- sp - 1`, the entry there, and that slot cleared to 0, or none when the array has no such slot. -/
def State.pop (s : State) : Option (Word × State) :=
  match s.stack[s.sp - 1]? with
  | some w => some (w, { s with stack := s.stack.set (s.sp - 1) 0, sp := s.sp - 1 })
  | none => none

end Sys2Proof.Machine
end

