-- ==== Sys2Proof/Machine/Operands.lean ====
section
/-! DEFINITION. The operand forms: register ranges (30_encoding R68) and the addressing modes of 44_index_memory R145. -/

namespace Sys2Proof.Machine

/-! ## Register ranges -/

/-- The lower end of the range two selectors name, in whichever order (R141). -/
def rangeLo (x y : Reg) : Nat := min x.toNat y.toNat

/-- `hi - lo`: one less than the number of registers in the range (R141). -/
def rangeSpan (x y : Reg) : Nat := max x.toNat y.toNat - min x.toNat y.toNat

/-- The values of `n` registers from number `k` upward. -/
def State.regsFrom (s : State) (k : Nat) : Nat → List Byte
  | 0 => []
  | n + 1 => s.getV (BitVec.ofNat 4 k) :: s.regsFrom (k + 1) n

/-- Write registers from number `k` upward. -/
def State.setRegs (s : State) (k : Nat) : List Byte → State
  | [] => s
  | b :: bs => (s.setV (BitVec.ofNat 4 k) b).setRegs (k + 1) bs

/-- The values of `n` flag-bank registers from number `k` upward. -/
def State.flagsFrom (s : State) (k : Nat) : Nat → List Byte
  | 0 => []
  | n + 1 => s.getFlag (BitVec.ofNat 4 k) :: s.flagsFrom (k + 1) n

/-- Write flag-bank registers from number `k` upward. -/
def State.setFlags (s : State) (k : Nat) : List Byte → State
  | [] => s
  | b :: bs => (s.setFlag (BitVec.ofNat 4 k) b).setFlags (k + 1) bs

/-! ## Addresses -/

/-- Register-indirect through I: `I + k` as a natural number, never wrapped (R54, R145). -/
def State.addrI (s : State) (k : Nat) : Nat := s.i.toNat + k

/-- Absolute: NNN zero-extended to 16 bits (R67). -/
def targetNNN (nnn : Addr12) : Word := nnn.setWidth 16

/-- The register BNNN adds: bits 11:8 of the literal, or V0, by `JUMP_OFFSET_REG` (R91). -/
def State.offsetReg (s : State) (nnn : Addr12) : Reg :=
  match s.params.jumpOffsetReg with
  | .vx => nnn.extractLsb' 8 4
  | .v0 => 0

/-- Absolute plus register: at most 0x10FE, not masked to 12 bits (R91). -/
def State.targetOffset (s : State) (nnn : Addr12) : Word := targetNNN nnn + (s.getV (s.offsetReg nnn)).setWidth 16

/-- `I + V[X]`, modulo 65536 (R135). -/
def State.indexPlus (s : State) (x : Reg) : Word := s.i + (s.getV x).setWidth 16

/-- The low 4 bits of `V[x]`, which name a key or a hex digit (R127, R136). -/
def State.lowNibble (s : State) (x : Reg) : Nibble := (s.getV x).setWidth 4

/-- The small-font glyph of a digit: `FONT_SMALL_BASE + 5 * digit` (R136). -/
def State.smallGlyph (s : State) (digit : Nibble) : Word := BitVec.ofNat 16 (s.params.fontSmallBase + 5 * digit.toNat)

/-- The big-font glyph of a digit: `FONT_BIG_BASE + 10 * digit` (R137). -/
def State.bigGlyph (s : State) (digit : Nibble) : Word := BitVec.ofNat 16 (fontBigBase s.params + 10 * digit.toNat)

/-- The three decimal digits of a byte, hundreds first (R138). -/
def bcdDigits (b : Byte) : List Byte :=
  [BitVec.ofNat 8 (b.toNat / 100), BitVec.ofNat 8 (b.toNat / 10 % 10), BitVec.ofNat 8 (b.toNat % 10)]

end Sys2Proof.Machine
end

