-- ==== Sys2Proof/Machine/Cycle.lean ====
section
/-! DEFINITION. The fetch half of the step cycle in the Running state (30_encoding R82, R83): fetch, check, advance and
decode. -/

namespace Sys2Proof.Machine

/-- The second word of a 4-byte instruction at `a` whose first word is `w`; not read for a 2-byte one (R66, R69). -/
def State.fetchSecond (s : State) (a : Nat) (w : Word) : Word := if w = longWord then s.fetch16 (a + 2) else 0

/-- The last byte address the fetch of an instruction at `a` with first word `w` reads (R82). -/
def lastFetched (a : Nat) (w : Word) : Nat := a + instrLength w - 1

/-- Fetch at `pc`, make the three checks of R82 in their order, advance `pc` and decode. The answer is the instruction
and the advanced state, or the state in which the fault was taken: `pc` still A for a fetch or advance fault, A + 2 for
an Unknown word (R83, R150). -/
def State.fetchAdvance (s : State) : Except State (Instr × State) :=
  let a := s.pc.toNat
  if maxAddr < a + 1 then .error (s.raise (.outOfBounds .fetch (a + 1)) s.pc)
  else
    let w := s.fetch16 a
    if maxAddr < lastFetched a w then .error (s.raise (.outOfBounds .fetch (lastFetched a w)) s.pc)
    else if maxAddr < a + instrLength w then .error (s.raise (.outOfBounds .pc (a + instrLength w)) s.pc)
    else
      let t := s.setPc (BitVec.ofNat 16 (a + instrLength w))
      match classify w (s.fetchSecond a w) with
      | .ok i => .ok (i, t)
      | .error _ => .error (t.raise (.unknownOpcode w s.pc) s.pc)

/-- The decoder's look-ahead at an address: a pure read of memory with no side effect, for the host's use (R63, R78,
R79). None when the fetch would read past 0xFFFF. -/
def State.lookAhead (s : State) (a : Nat) : Option DecodedRecord :=
  if maxAddr < a + 1 then none
  else if maxAddr < lastFetched a (s.fetch16 a) then none
  else some (decodeRecord (s.fetch16 a) (s.fetchSecond a (s.fetch16 a)))

/-- The state in which an instruction's bytes stand where the next step fetches: stored at `pc`, and the engine
Running, since a halted or waiting engine fetches nothing (R80, R81). Bytes past 0xFFFF have no place. -/
def State.placeAtPc (s : State) (bytes : List Byte) : State :=
  { s.setBytes s.pc.toNat (bytes.take (0x10000 - s.pc.toNat)) with halted := false, haltReason := none, waiting := none }

end Sys2Proof.Machine
end

