-- ==== Sys2Proof/Machine/Flags.lean ====
section
/-! DEFINITION. The computations of VF, the one flag (10_state R16, 41_alu R98). -/

namespace Sys2Proof.Machine

/-- A flag as the byte VF receives: 1 or 0. -/
def flagByte (b : Bool) : Byte := if b then 1 else 0

/-- Carry: the exact sum exceeds 255 (R105). -/
def carryOut (x y : Byte) : Bool := decide (255 < x.toNat + y.toNat)

/-- No borrow in `minuend - subtrahend`: the minuend is not the smaller one (R106, R108). -/
def noBorrow (minuend subtrahend : Byte) : Bool := decide (subtrahend.toNat ≤ minuend.toNat)

/-- The bit a right shift puts out: bit 0 (R107). -/
def shiftedOutRight (x : Byte) : Bool := x.getLsbD 0

/-- The bit a left shift puts out: bit 7 (R109). -/
def shiftedOutLeft (x : Byte) : Bool := x.getLsbD 7

/-- Write VF first and `V[x]` last, so that the result wins when X = F (R98). -/
def State.setVFThen (s : State) (flag : Bool) (x : Reg) (result : Byte) : State :=
  (s.setV VF (flagByte flag)).setV x result

end Sys2Proof.Machine
end

