-- ==== Sys2Proof/Machine/Alu.lean ====
section
/-! DEFINITION. Register arithmetic and logic (41_alu R98–R111). Every meaning reads all its operands before its first
write. -/

namespace Sys2Proof.Machine

/-- 6XNN (R99). -/
def execLdImm (x : Reg) (nn : Byte) (s : State) : Result := .next (s.setV x nn)

/-- 7XNN: no carry (R100). -/
def execAddImm (x : Reg) (nn : Byte) (s : State) : Result := .next (s.setV x (s.getV x + nn))

/-- 8XY0 (R101). -/
def execLdReg (x y : Reg) (s : State) : Result := .next (s.setV x (s.getV y))

/-- 8XY1: VF is no side effect (R102). -/
def execOrReg (x y : Reg) (s : State) : Result := .next (s.setV x (s.getV x ||| s.getV y))

/-- 8XY2 (R103). -/
def execAndReg (x y : Reg) (s : State) : Result := .next (s.setV x (s.getV x &&& s.getV y))

/-- 8XY3 (R104). -/
def execXorReg (x y : Reg) (s : State) : Result := .next (s.setV x (s.getV x ^^^ s.getV y))

/-- 8XY4: VF is the carry (R105). -/
def execAddReg (x y : Reg) (s : State) : Result :=
  .next (s.setVFThen (carryOut (s.getV x) (s.getV y)) x (s.getV x + s.getV y))

/-- 8XY5: VF is 1 when there is no borrow (R106). -/
def execSub (x y : Reg) (s : State) : Result :=
  .next (s.setVFThen (noBorrow (s.getV x) (s.getV y)) x (s.getV x - s.getV y))

/-- 8XY6: V[X] in place, Y ignored (R107). -/
def execShr (x _y : Reg) (s : State) : Result :=
  .next (s.setVFThen (shiftedOutRight (s.getV x)) x (s.getV x >>> 1))

/-- 8XY7: the reverse subtraction (R108). -/
def execSubn (x y : Reg) (s : State) : Result :=
  .next (s.setVFThen (noBorrow (s.getV y) (s.getV x)) x (s.getV y - s.getV x))

/-- 8XYE: V[X] in place, Y ignored (R109). -/
def execShl (x _y : Reg) (s : State) : Result :=
  .next (s.setVFThen (shiftedOutLeft (s.getV x)) x (s.getV x <<< 1))

/-- CXNN: a fresh free byte under the mask (R111, R110). -/
def execRnd (x : Reg) (nn : Byte) (s : State) : Result := .next (s.drawByte.2.setV x (s.drawByte.1 &&& nn))

end Sys2Proof.Machine
end

