-- ==== Sys2Proof/Machine/Compositor.lean ====
section
/-! DEFINITION. The display compositor (42_display §1): geometry, plane selection, Clear, Toggle, Shift and sprite
data. -/

namespace Sys2Proof.Machine

/-! ## Geometry and cells (R27, R31, R112) -/

/-- `W`, the current width. -/
def State.width (s : State) : Nat := if s.hires then 128 else 64

/-- `H`, the current height. -/
def State.height (s : State) : Nat := if s.hires then 64 else 32

/-- One plane of a display. -/
def Display.plane (d : Display) : PlaneId → PlaneBits
  | .one => d.plane1
  | .two => d.plane2

/-- A display with one plane replaced. -/
def Display.setPlane (d : Display) (p : PlaneId) (b : PlaneBits) : Display :=
  match p with
  | .one => { d with plane1 := b }
  | .two => { d with plane2 := b }

/-- The row y of a plane; no pixel is lit in a row that the array does not have. -/
def rowOfPlane (b : PlaneBits) (y : Nat) : BitVec 128 := b[y]?.getD 0

/-- The plane-p bit of `cell(x, y)` (R31). -/
def Display.pixel (d : Display) (p : PlaneId) (x y : Nat) : Bool := (rowOfPlane (d.plane p) y).getLsbD x

/-- `cell(x, y)`: bit 0 is plane 1, bit 1 is plane 2 (R31). -/
def Display.cell (d : Display) (x y : Nat) : BitVec 2 :=
  BitVec.ofBool (d.pixel .two x y) ++ BitVec.ofBool (d.pixel .one x y)

/-- `planes(m)`: the selected planes in ascending order (R113). -/
def planes (m : BitVec 2) : List PlaneId :=
  (if m.getLsbD 0 then [.one] else []) ++ (if m.getLsbD 1 then [.two] else [])

/-- Apply an operation on one plane to each plane of a list, leaving the others alone (R113). -/
def Display.onPlanes (ps : List PlaneId) (f : PlaneBits → PlaneBits) (d : Display) : Display :=
  ps.foldl (fun d p => d.setPlane p (f (d.plane p))) d

/-! ## Clear (R114) -/

/-- The columns of a row with x < w. -/
def columns (w : Nat) : BitVec 128 := BitVec.allOnes 128 >>> (128 - w)

/-- Darken the pixels with x < w and y < h. -/
def clearPlane (w h : Nat) (b : PlaneBits) : PlaneBits :=
  Vector.ofFn fun y : Fin 64 => if y.val < h then b[y] &&& ~~~(columns w) else b[y]

/-- `Clear(m)` for the planes `m` of a W × H display. -/
def Display.clear (w h : Nat) (m : BitVec 2) (d : Display) : Display := d.onPlanes (planes m) (clearPlane w h)

/-! ## Shift (R116) -/

/-- The pixels of a row moved by dx columns, positive to the right, zero-filled. -/
def shiftRow (dx : Int) (r : BitVec 128) : BitVec 128 := if 0 ≤ dx then r <<< dx.toNat else r >>> (-dx).toNat

/-- The part of the old row y - dy that is on the W × H screen; none for a row off it. -/
def sourceRow (w h : Nat) (dy : Int) (b : PlaneBits) (y : Nat) : BitVec 128 :=
  if 0 ≤ (y : Int) - dy ∧ (y : Int) - dy < h then rowOfPlane b ((y : Int) - dy).toNat &&& columns w else 0

/-- The plane with its W × H pixels moved by (dx, dy), computed from the old plane, row by row. -/
def shiftPlane (w h : Nat) (dx dy : Int) (b : PlaneBits) : PlaneBits :=
  Vector.ofFn fun y : Fin 64 =>
    if y.val < h then (b[y] &&& ~~~(columns w)) ||| (shiftRow dx (sourceRow w h dy b y) &&& columns w) else b[y]

/-- `Shift(dx, dy)` for the planes `m` of a W × H display. -/
def Display.shift (w h : Nat) (m : BitVec 2) (dx dy : Int) (d : Display) : Display :=
  d.onPlanes (planes m) (shiftPlane w h dx dy)

/-! ## Toggle and the sprite (R115, R117, R119) -/

/-- The row with pixel x toggled. -/
def toggleBit (r : BitVec 128) (x : Nat) : BitVec 128 := r ^^^ BitVec.ofNat 128 (2 ^ x)

/-- The plane with pixel (x, y) toggled; nothing for a row that the array does not have. -/
def togglePlane (b : PlaneBits) (x y : Nat) : PlaneBits := b.setIfInBounds y (toggleBit (rowOfPlane b y) x)

/-- `Toggle(x, y, p)`: wrap the position into W × H, toggle the plane-p bit there, and answer whether it was lit
(R115, R112). -/
def Display.toggle (w h : Nat) (d : Display) (p : PlaneId) (x y : Nat) : Display × Bool :=
  (d.setPlane p (togglePlane (d.plane p) (x % w) (y % h)), d.pixel p (x % w) (y % h))

/-- How many rows a sprite has (R119). -/
def spriteRows (n : Nibble) : Nat := if n = 0 then 16 else n.toNat

/-- How many columns a sprite has (R119). -/
def spriteWidth (n : Nibble) : Nat := if n = 0 then 16 else 8

/-- How many bytes a sprite has (R119). -/
def spriteBytes (n : Nibble) : Nat := if n = 0 then 32 else n.toNat

/-- `pixel(r, c)` of the sprite at I: the most significant bit is the leftmost pixel, and a 16-pixel row is two bytes,
the left half at the lower address (R117, R51). -/
def State.spritePixel (s : State) (n : Nibble) (r c : Nat) : Bool :=
  if n = 0 then (s.fetch16 (s.i.toNat + 2 * r)).getLsbD (15 - c) else (s.byteAt (s.i.toNat + r)).getLsbD (7 - c)

/-- The lit columns of one sprite row. -/
def State.litColumns (s : State) (n : Nibble) (r : Nat) : List Nat :=
  (List.range (spriteWidth n)).filter fun c => s.spritePixel n r c

/-- The toggles a sprite makes at origin (x0, y0) in the planes `ps`, in the order of R119: row by row, column by
column, plane by plane. -/
def State.spriteToggles (s : State) (n : Nibble) (x0 y0 : Nat) (ps : List PlaneId) : List (PlaneId × Nat × Nat) :=
  (List.range (spriteRows n)).flatMap fun r =>
    (s.litColumns n r).flatMap fun c => ps.map fun p => (p, x0 + c, y0 + r)

/-- Make the toggles in order, remembering whether any of them cleared a lit pixel (`hit`). -/
def Display.toggleAll (w h : Nat) : Display → Bool → List (PlaneId × Nat × Nat) → Display × Bool
  | d, hit, [] => (d, hit)
  | d, hit, (p, x, y) :: ts =>
    Display.toggleAll w h (d.toggle w h p x y).1 (hit || (d.toggle w h p x y).2) ts

end Sys2Proof.Machine
end

