-- ==== Sys2Proof/Machine/Display.lean ====
section
/-! DEFINITION. The display instructions (42_display R118–R126). All but FX01 set `redraw`. -/

namespace Sys2Proof.Machine

/-- `Shift(dx, dy); redraw <- true` on the current screen and planes (R116, R120–R123). -/
def State.scroll (s : State) (dx dy : Int) : State :=
  s.present (s.display.shift s.width s.height s.planeMask dx dy)

/-- 00E0 (R118). -/
def execCls (s : State) : Result := .next (s.present (s.display.clear s.width s.height s.planeMask))

/-- What DXYN leaves on the display, and whether it hit a lit pixel (R119). -/
def State.drawn (s : State) (x y : Reg) (n : Nibble) : Display × Bool :=
  s.display.toggleAll s.width s.height false
    (s.spriteToggles n (s.getV x).toNat (s.getV y).toNat (planes s.planeMask))

/-- DXYN: the sprite's last byte is checked before any effect (R119). -/
def execDrw (x y : Reg) (n : Nibble) (s : State) : Result :=
  s.checkBound .read (s.addrI (spriteBytes n - 1))
    (.next ((s.present (s.drawn x y n).1).setV VF (flagByte (s.drawn x y n).2)))

/-- 00CN (R120). -/
def execScd (n : Nibble) (s : State) : Result := .next (s.scroll 0 n.toNat)

/-- 00DN (R121). -/
def execScu (n : Nibble) (s : State) : Result := .next (s.scroll 0 (-n.toNat))

/-- 00FB: 4 columns (R122). -/
def execScr (s : State) : Result := .next (s.scroll 4 0)

/-- 00FC: 4 columns (R123). -/
def execScl (s : State) : Result := .next (s.scroll (-4) 0)

/-- 00FE: also when the mode does not change, and both planes whatever the mask (R124). -/
def execLores (s : State) : Result := .next (s.setResolution false)

/-- 00FF (R125). -/
def execHires (s : State) : Result := .next (s.setResolution true)

/-- FX01: the mask is the low 2 bits of the register's value; `redraw` is not set (R126). -/
def execPlane (x : Reg) (s : State) : Result := .next (s.setPlaneMask ((s.getV x).setWidth 2))

end Sys2Proof.Machine
end

