-- ==== Sys2Proof/Machine/Flow.lean ====
section
/-! DEFINITION. Control transfer (40_flow R87–R97). `pc` already holds A + 2. -/

namespace Sys2Proof.Machine

/-- 00EE (R87). -/
def execRet (s : State) : Result :=
  if 1 ≤ s.sp then
    match s.pop with
    | some (w, t) => .next (t.setPc w)
    | none => .fault .noStackSlot
  else .next (s.raise (.stackUnderflow s.fetchedFrom) s.fetchedFrom)

/-- 2NNN: the return address pushed is the advanced `pc` (R89). -/
def execCall (nnn : Addr12) (s : State) : Result :=
  if s.sp < s.params.stackDepth then
    match s.push s.pc with
    | some t => .next (t.setPc (targetNNN nnn))
    | none => .fault .noStackSlot
  else .next (s.raise (.stackOverflow s.fetchedFrom) s.fetchedFrom)

/-- 1NNN (R90). -/
def execJp (nnn : Addr12) (s : State) : Result := .next (s.setPc (targetNNN nnn))

/-- BNNN (R91). -/
def execJpOffset (nnn : Addr12) (s : State) : Result := .next (s.setPc (s.targetOffset nnn))

/-- 3XNN (R92). -/
def execSeImm (x : Reg) (nn : Byte) (s : State) : Result := s.skipIf (s.getV x == nn)

/-- 4XNN (R93). -/
def execSneImm (x : Reg) (nn : Byte) (s : State) : Result := s.skipIf (s.getV x != nn)

/-- 5XY0 (R94). -/
def execSeReg (x y : Reg) (s : State) : Result := s.skipIf (s.getV x == s.getV y)

/-- 9XY0 (R95). -/
def execSneReg (x y : Reg) (s : State) : Result := s.skipIf (s.getV x != s.getV y)

/-- 00FD (R96). -/
def execExit (s : State) : Result := .next s.halt

end Sys2Proof.Machine
end

