-- ==== Sys2Proof/Machine/IndexMemory.lean ====
section
/-! DEFINITION. Index register, font, BCD, block transfers and the flag bank (44_index_memory R133–R144). Each address
range is checked by its last address before the first write. -/

namespace Sys2Proof.Machine

/-- ANNN (R133). -/
def execLdI (nnn : Addr12) (s : State) : Result := .next (s.setI (targetNNN nnn))

/-- F000 NNNN (R134). -/
def execLdILong (nnnn : Word) (s : State) : Result := .next (s.setI nnnn)

/-- FX1E: wraps at 16 bits, no flag (R135). -/
def execAddI (x : Reg) (s : State) : Result := .next (s.setI (s.indexPlus x))

/-- FX29 (R136). -/
def execLdF (x : Reg) (s : State) : Result := .next (s.setI (s.smallGlyph (s.lowNibble x)))

/-- FX30 (R137). -/
def execLdHf (x : Reg) (s : State) : Result := .next (s.setI (s.bigGlyph (s.lowNibble x)))

/-- Store the `n + 1` registers from number `k` at I upward, or raise `OutOfBounds(write, I + n)` (R139, R141). -/
def State.storeRange (s : State) (k n : Nat) : Result :=
  s.checkBound .write (s.addrI n) (.next (s.setBytes (s.addrI 0) (s.regsFrom k (n + 1))))

/-- Load the `n + 1` registers from number `k` from I upward, or raise `OutOfBounds(read, I + n)` (R140, R142). -/
def State.loadRange (s : State) (k n : Nat) : Result :=
  s.checkBound .read (s.addrI n) (.next (s.setRegs k (s.bytesFrom (s.addrI 0) (n + 1))))

/-- FX33 (R138). -/
def execLdB (x : Reg) (s : State) : Result :=
  s.checkBound .write (s.addrI 2) (.next (s.setBytes (s.addrI 0) (bcdDigits (s.getV x))))

/-- FX55: `I` is unchanged (R139). -/
def execStoreRegs (x : Reg) (s : State) : Result := s.storeRange 0 x.toNat

/-- FX65: `I` is unchanged (R140). -/
def execLoadRegs (x : Reg) (s : State) : Result := s.loadRange 0 x.toNat

/-- 5XY2: from the lower register upward, whichever selector holds it (R141). -/
def execSave (x y : Reg) (s : State) : Result := s.storeRange (rangeLo x y) (rangeSpan x y)

/-- 5XY3 (R142). -/
def execLoad (x y : Reg) (s : State) : Result := s.loadRange (rangeLo x y) (rangeSpan x y)

/-- FX75: every X is in range (R143). -/
def execSaveFlags (x : Reg) (s : State) : Result := .next (s.setFlags 0 (s.regsFrom 0 (x.toNat + 1)))

/-- FX85 (R144). -/
def execRestoreFlags (x : Reg) (s : State) : Result := .next (s.setRegs 0 (s.flagsFrom 0 (x.toNat + 1)))

end Sys2Proof.Machine
end

