-- ==== Sys2Proof/Machine/KeysTimers.lean ====
section
/-! DEFINITION. Key and timer instructions (43_keys_timers R127–R132) and the key-wait poll (30_encoding R81). -/

namespace Sys2Proof.Machine

/-- EX9E: always 2 bytes (R127). -/
def execSkp (x : Reg) (s : State) : Result := s.skipTwoIf (s.pressed (s.lowNibble x))

/-- EXA1: always 2 bytes (R128). -/
def execSknp (x : Reg) (s : State) : Result := s.skipTwoIf (!s.pressed (s.lowNibble x))

/-- FX0A: only enters the wait; the keys are not queried in this step (R129). -/
def execLdVxK (x : Reg) (s : State) : Result := .next (s.waitFor x)

/-- FX07 (R130). -/
def execLdVxDt (x : Reg) (s : State) : Result := .next (s.setV x s.dt)

/-- FX15 (R131). -/
def execLdDtVx (x : Reg) (s : State) : Result := .next (s.setDt (s.getV x))

/-- FX18 (R132). -/
def execLdStVx (x : Reg) (s : State) : Result := .next (s.setSt (s.getV x))

/-- The first pressed key in ascending order, if any; key 0 like any other (R81). -/
def State.firstKey (s : State) : Option Nibble :=
  ((List.range 16).map fun k => BitVec.ofNat 4 k).find? fun k => s.pressed k

/-- One poll of a key-wait for register `r`: the first pressed key is written and ends the wait; `pc` does not move and
nothing is fetched (R81). -/
def State.pollKeys (s : State) (r : Reg) : State :=
  match s.firstKey with
  | some k => { s.setV r (k.setWidth 8) with waiting := none }
  | none => s

end Sys2Proof.Machine
end

