-- ==== Sys2Proof/Machine/Step.lean ====
section
/-! DEFINITION. One `step` (30_encoding R80–R84): a no-op when halted, a key poll when waiting, one instruction when
Running. -/

namespace Sys2Proof.Machine

/-- One step transaction (R80, R81, R82). -/
def step (s : State) : Host.Outcome State Fault Refusal :=
  if s.halted then .next s
  else
    match s.waiting with
    | some r => .next (s.pollKeys r)
    | none =>
      match s.fetchAdvance with
      | .ok (i, t) => exec i t
      | .error t => .next t

/-- `s` with the instruction that the opcode table numbers `w` stored where the next step fetches (log entry 8). -/
def State.withFetchWord (s : State) (nbits w : Nat) : State := s.placeAtPc (tableBytes nbits w)

end Sys2Proof.Machine
end

