-- ==== Sys2Proof/Machine/HostOps.lean ====
section
/-! DEFINITION. The host's operations on the block other than `step` (60_exceptions R158–R166, 70_reset R167–R172). Each
happens only between steps. -/

namespace Sys2Proof.Machine

/-- `init` (R167): every field at its reset value, whatever the state was. The parameters and the host's key snapshot
are no state of the block (R34) and stay; the random draws go on from where they are, since seeding has no
architectural effect and a new seed repeats nothing (R110). This is the only way out of `Halted` (R153, R172). -/
def State.init (s : State) : State := State.initial s.params s.keys s.draws

/-- `load` (R169): copy the image to 0x200 upward, or none when it does not fit. Nothing but memory changes. -/
def State.loadImage (s : State) (image : List Byte) : Option State :=
  if imageFits image then some (s.setBytes loadAddr image) else none

/-- A countdown that stops at zero (R158). -/
def countDown (b : Byte) : Byte := if b = 0 then 0 else b - 1

/-- `tick` (R158): both timers, in every run state, nothing else. -/
def State.tick (s : State) : State := { s with dt := countDown s.dt, st := countDown s.st }

/-- `ack_frame` (R163): the only thing that clears `redraw`. -/
def State.ackFrame (s : State) : State := { s with redraw := false }

/-- The key snapshot of the coming step (R161). -/
def State.withKeys (s : State) (keys : Vector Bool 16) : State := { s with keys := keys }

/-- What the host may read between steps, without changing anything (R162). -/
structure Surface where
  hires : Bool
  width : Nat
  height : Nat
  /-- The W × H cells, row by row from the top, each row from the left. -/
  cells : List (List (BitVec 2))
  redraw : Bool
  halted : Bool
  haltReason : Option HaltReason
  st : Byte
  deriving DecidableEq, Repr

/-- The read surface of a state (R162). -/
def State.surface (s : State) : Surface :=
  { hires := s.hires
    width := s.width
    height := s.height
    cells := (List.range s.height).map fun y => (List.range s.width).map fun x => s.display.cell x y
    redraw := s.redraw
    halted := s.halted
    haltReason := s.haltReason
    st := s.st }

/-- A cell is on for rendering when either plane's bit is set (R31, R162). -/
def cellOn (c : BitVec 2) : Bool := c != 0

/-- The audio condition `ST > 0` (R164). -/
def State.soundOn (s : State) : Bool := s.st != 0

/-- The numeric code of a halt reason, for hosts that report one (R146). -/
def HaltReason.code : HaltReason → Nat
  | .exit => 0
  | .fault (.unknownOpcode _ _) _ => 1
  | .fault (.stackOverflow _) _ => 2
  | .fault (.stackUnderflow _) _ => 3
  | .fault (.outOfBounds _ _) _ => 4

/-- The run states of R28. -/
inductive RunState where
  | running
  | waitingForKey (r : Reg)
  | halted
  deriving DecidableEq, Repr

/-- Which of the three run states the engine is in; when halted, the waiting register is ignored (R28). -/
def State.runState (s : State) : RunState :=
  if s.halted then .halted
  else
    match s.waiting with
    | some r => .waitingForKey r
    | none => .running

end Sys2Proof.Machine
end

