-- ==== Sys2Proof/Machine/Session.lean ====
section
/-! DEFINITION. The host's protocol (60_exceptions R166): any sequence of the host operations, one at a time, with a key
snapshot of its own for each step, and `load` once, between `init` and the first step (70_reset R171,
93_implementation_defined U11). -/

namespace Sys2Proof.Machine

/-- The block and where the host is in the protocol. -/
structure Session where
  machine : State
  /-- `init` has happened and neither a load nor a step has since, so `load` has a meaning (R166, R171, U11). -/
  loadOpen : Bool
  deriving DecidableEq, Repr

/-- A host operation (R166). Reading the surface changes nothing. -/
inductive HostOp where
  | init
  | load (image : List Byte)
  | step (keys : Vector Bool 16)
  | tick
  | ackFrame
  | readSurface
  deriving DecidableEq, Repr

/-- The session right after the host's first `init` under parameters `p` (R171). -/
def Session.start (p : Params) : Session :=
  { machine := State.initial p (Vector.replicate 16 false) 0, loadOpen := true }

/-- `load` as the protocol has it: one image after `init` (R171), which closes the window, so that the host writes memory
no more until the next `init` (R59); refused by name when the image is too large (R169, U10), and when a load or a step
has come before it (U11, R166). -/
def Session.load (h : Session) (image : List Byte) : Host.Outcome Session Fault Refusal :=
  if h.loadOpen then
    match h.machine.loadImage image with
    | some s => .next { machine := s, loadOpen := false }
    | none => .refused .imageTooLarge
  else .refused .loadNotAllowed

/-- `step(keys)` as the protocol has it: the snapshot is an argument of the step (R161). -/
def Session.step (h : Session) (keys : Vector Bool 16) : Host.Outcome Session Fault Refusal :=
  match Sys2Proof.Machine.step (h.machine.withKeys keys) with
  | .next s => .next { machine := s, loadOpen := false }
  | .fault r => .fault r
  | .refused r => .refused r

/-- One host operation (R166). -/
def Session.apply (h : Session) : HostOp → Host.Outcome Session Fault Refusal
  | .init => .next { machine := h.machine.init, loadOpen := true }
  | .load image => h.load image
  | .step keys => h.step keys
  | .tick => .next { h with machine := h.machine.tick }
  | .ackFrame => .next { h with machine := h.machine.ackFrame }
  | .readSurface => .next h

/-- A sequence of host operations, stopping at the first that is refused or faults (R166). -/
def Session.run (h : Session) : List HostOp → Host.Outcome Session Fault Refusal
  | [] => .next h
  | op :: ops =>
    match h.apply op with
    | .next h' => h'.run ops
    | .fault r => .fault r
    | .refused r => .refused r

end Sys2Proof.Machine
end

