-- ==== Sys2Proof/Safety.lean ====
section
/-! DEFINITION. The invariant of the machine, and what counts as a safe run in the terms statements use. -/

namespace Sys2Proof

open Sys2Proof.Machine

/-- What every state a run reaches satisfies, and the spec states of the machine. -/
structure StateInv (s : State) : Prop where
  /-- The parameters are ones R5 and R168 allow. -/
  params : s.params.wf = true
  /-- Memory is in its canonical form, inside the 64 KiB space (R45). -/
  mem : Memory.wf s.params s.mem = true
  /-- The stack array has `STACK_DEPTH` entries (R20). -/
  depth : s.stack.length = s.params.stackDepth
  /-- `sp` is a count in 0..`STACK_DEPTH` (R21). -/
  count : s.sp ≤ s.params.stackDepth
  /-- Entries at index `sp` and above hold 0 (R21). -/
  popped : ∀ k, s.sp ≤ k → s.stack.getD k 0 = 0
  /-- The cells outside W × H are 0 (R32). -/
  offscreen : ∀ x y, ¬(x < s.width ∧ y < s.height) → s.display.cell x y = 0
  /-- `halt_reason` is None exactly while not halted (R29). -/
  reason : s.halted = s.haltReason.isSome
  /-- A halted engine waits for no key (R152). -/
  idle : s.halted = true → s.waiting = none

/-! ## Terms the statements use -/

/-- The engine is Running (R28). -/
def Running (s : State) : Prop := s.halted = false ∧ s.waiting = none

/-- `t` is `s` with nothing changed but V, in which register r holds `f r`. -/
def OnlyRegs (s t : State) (f : Reg → Byte) : Prop := t = { s with v := t.v } ∧ ∀ r, t.getV r = f r

/-- `t` is `s` with nothing changed but memory, in which the byte at `a` reads `f a`. -/
def OnlyMem (s t : State) (f : Nat → Byte) : Prop := t = { s with mem := t.mem } ∧ ∀ a, t.byteAt a = f a

/-- `s` halted with a fault recorded at address `at_`, and nothing else changed (R9, R152). -/
def haltedBy (s : State) (k : FaultKind) (at_ : Word) : State :=
  { s with halted := true, haltReason := some (.fault k at_) }

/-- `res` is a skip of the next instruction, whatever it is, exactly when `c` holds: by 4 bytes over the word F000, by
2 over any other, with the two bounds faults of R88 at the top of memory. `pc` is A + 2. -/
def SkipsNext (s : State) (c : Prop) (res : Result) : Prop :=
  (¬c → res = .next s) ∧
  (c → s.pc = 0xFFFF → res = .next (haltedBy s (.outOfBounds .fetch 0x10000) (s.pc - 2))) ∧
  (c → s.pc ≠ 0xFFFF → ∀ n, n = (if s.byteAt s.pc.toNat = 0xF0 ∧ s.byteAt (s.pc.toNat + 1) = 0x00 then 4 else 2) →
    (0xFFFF < s.pc.toNat + n →
      res = .next (haltedBy s (.outOfBounds .pc (s.pc.toNat + n)) (s.pc - 2))) ∧
    (s.pc.toNat + n ≤ 0xFFFF → res = .next { s with pc := BitVec.ofNat 16 (s.pc.toNat + n) }))

/-- `res` is a skip of exactly 2 bytes when `c` holds, with the one bounds fault of R127. `pc` is A + 2. -/
def SkipsTwo (s : State) (c : Prop) (res : Result) : Prop :=
  (¬c → res = .next s) ∧
  (c → 0xFFFF < s.pc.toNat + 2 → res = .next (haltedBy s (.outOfBounds .pc (s.pc.toNat + 2)) (s.pc - 2))) ∧
  (c → s.pc.toNat + 2 ≤ 0xFFFF → res = .next { s with pc := BitVec.ofNat 16 (s.pc.toNat + 2) })

/-- The plane is selected by the mask (R26, R113). -/
def selected (m : BitVec 2) : PlaneId → Prop
  | .one => m.getLsbD 0 = true
  | .two => m.getLsbD 1 = true

/-- The column c of row r of the sprite at I is lit, read off the memory bytes: 8 pixels a row for N in 1..15, 16 rows
of two bytes for N = 0, the most significant bit leftmost (R117, R51). -/
def spriteLit (s : State) (n : Nibble) (r c : Nat) : Bool :=
  if n = 0 then
    if c < 8 then (s.byteAt (s.i.toNat + 2 * r)).getLsbD (7 - c)
    else (s.byteAt (s.i.toNat + 2 * r + 1)).getLsbD (15 - c)
  else (s.byteAt (s.i.toNat + r)).getLsbD (7 - c)

/-- The sprite drawn from origin (x0, y0) lights the screen position (x, y), each pixel wrapped on its own (R112,
R119). -/
def spriteCovers (s : State) (n : Nibble) (x0 y0 x y : Nat) : Prop :=
  ∃ r c, r < (if n = 0 then 16 else n.toNat) ∧ c < (if n = 0 then 16 else 8) ∧ spriteLit s n r c = true ∧
    x = (x0 + c) % s.width ∧ y = (y0 + r) % s.height

/-- The registers an instruction may write: its destinations, and VF where the spec makes VF a side effect (R16,
R68). -/
def writesReg : Instr → Reg → Prop
  | .ldImm x _, r | .addImm x _, r | .ldReg x _, r | .orReg x _, r | .andReg x _, r | .xorReg x _, r => r = x
  | .rnd x _, r | .ldVxDt x, r => r = x
  | .addReg x _, r | .sub x _, r | .shr x _, r | .subn x _, r | .shl x _, r => r = x ∨ r = VF
  | .drw _ _ _, r => r = VF
  | .load x y, r => min x.toNat y.toNat ≤ r.toNat ∧ r.toNat ≤ max x.toNat y.toNat
  | .loadRegs x, r | .restoreFlags x, r => r.toNat ≤ x.toNat
  | _, _ => False

/-- How many bytes an instruction stores at I: 3 for FX33, the registers of the range for FX55 and 5XY2, none for any
other (R46). -/
def storedBytes : Instr → Nat
  | .ldB _ => 3
  | .storeRegs x => x.toNat + 1
  | .save x y => max x.toNat y.toNat - min x.toNat y.toNat + 1
  | _ => 0

end Sys2Proof
end

