-- ==== Sys2Proof/Certificates/Slice0/Obligations.lean ====
section
/-! DEFINITION. The statements for the provers, each made from the numbered rules of spec/. `s` is always the state after
the step cycle has advanced `pc` where a statement is about `exec` (00_scope R11), and `s.pc - 2` is then A. -/

open Sys2Proof Sys2Proof.Machine

/-! ## Reset, load and the host's operations -/

/-- R38–R42, R44: what `init` leaves in I, `pc`, the stack, the timers, the flag bank, the display and the run state,
from any state, and so at reset. -/
def Obligations.InitLeavesTheResetValues : Prop :=
  ∀ t : State, (t = State.reset ∨ ∃ s : State, t = s.init) →
    t.i = 0 ∧ t.pc = 0x200 ∧ t.sp = 0 ∧ (∀ k, t.stack.getD k 0 = 0) ∧ t.stack.length = t.params.stackDepth ∧
    t.dt = 0 ∧ t.st = 0 ∧ (∀ r, t.getFlag r = 0) ∧ (∀ x y, t.display.cell x y = 0) ∧ t.redraw = false ∧
    t.halted = false ∧ t.haltReason = none ∧ t.waiting = none ∧ t.runState = .running

/-- R37, R43: what `init` leaves in the general registers, the plane mask and the resolution. That the mask starts at 1
is the spec's own decision D6. -/
def Obligations.InitSetsRegistersAndPlanes : Prop :=
  ∀ t : State, (t = State.reset ∨ ∃ s : State, t = s.init) →
    (∀ r, t.getV r = 0) ∧ t.planeMask = 1 ∧ t.hires = false

/-- R167, R168, R56: what `init` leaves in memory under any allowed parameters: the small font, the big font right
after it, zero everywhere else. The place of the fonts below 0x200 is the spec's decision D16. -/
def Obligations.InitInstallsTheFonts : Prop :=
  ∀ s : State, s.params.wf = true →
    (∀ k : Fin 80, s.init.byteAt (s.params.fontSmallBase + k) = s.params.fontSmall[k]) ∧
    (∀ k : Fin 160, s.init.byteAt (s.params.fontSmallBase + 80 + k) = s.params.fontBig[k]) ∧
    (∀ a, a < s.params.fontSmallBase ∨ s.params.fontSmallBase + 240 ≤ a → s.init.byteAt a = 0)

/-- R169: `load` copies an image of at most 0xFE00 bytes to 0x200 upward and changes nothing else, and refuses a
longer one. The limit and the refusal are the spec's decision D29. -/
def Obligations.LoadInstallsTheImage : Prop :=
  ∀ (s : State) (image : List Byte),
    (0xFE00 < image.length → s.loadImage image = none) ∧
    (image.length ≤ 0xFE00 → ∃ t, s.loadImage image = some t ∧
      OnlyMem s t fun a => if 0x200 ≤ a then image.getD (a - 0x200) (s.byteAt a) else s.byteAt a)

/-- R59, R166, R171: `load` comes once after `init`. A load and a step close its window, it stays closed through every
operation but `init`, and while it is closed a load is refused by name, and the operations between steps change
nothing but the timers and `redraw`: no byte of memory and no register is written by the host. `init` opens it. The
window is the spec's decision D30, the refusal of a second load is its ruling U11 (93_implementation_defined.md), and
the refusal by name is the model's form (log entry 7). -/
def Obligations.LoadOnlyBetweenInitAndFirstStep : Prop :=
  (∀ (h h' : Session) (ks : Vector Bool 16), h.apply (.step ks) = .next h' → h'.loadOpen = false) ∧
  (∀ (h h' : Session) (image : List Byte), h.apply (.load image) = .next h' → h.loadOpen = true ∧ h'.loadOpen = false) ∧
  (∀ (h : Session) (image : List Byte), h.loadOpen = true → image.length ≤ 0xFE00 →
    ∃ h', h.apply (.load image) = .next h' ∧ h.machine.loadImage image = some h'.machine) ∧
  (∀ (h h' : Session) (op : HostOp), op ≠ .init → h.loadOpen = false → h.apply op = .next h' → h'.loadOpen = false) ∧
  (∀ (h : Session) (image : List Byte), h.loadOpen = false → h.apply (.load image) = .refused .loadNotAllowed) ∧
  (∀ (ops : List HostOp) (h h' : Session), h.loadOpen = false → HostOp.init ∉ ops → (∀ ks, HostOp.step ks ∉ ops) →
    h.run ops = .next h' →
    h'.machine = { h.machine with dt := h'.machine.dt, st := h'.machine.st, redraw := h'.machine.redraw }) ∧
  (∀ h : Session, ∃ h', h.apply .init = .next h' ∧ h'.loadOpen = true ∧ h'.machine = h.machine.init)

/-- R158, R163, R164: one tick takes one from each timer that is not 0, in every run state, and changes nothing else
(the spec's decision D24); `ack_frame` clears `redraw` and changes nothing else (D36); the sound condition is ST > 0. -/
def Obligations.TickAndAcknowledge : Prop :=
  ∀ s : State, s.tick = { s with dt := s.tick.dt, st := s.tick.st } ∧
    s.tick.dt.toNat = (if 0 < s.dt.toNat then s.dt.toNat - 1 else 0) ∧
    s.tick.st.toNat = (if 0 < s.st.toNat then s.st.toNat - 1 else 0) ∧
    s.ackFrame = { s with redraw := false } ∧ (s.soundOn = true ↔ 0 < s.st.toNat)

/-- R162: what the host reads: the resolution with its width and height, the cells of the W × H screen by row and column,
`redraw`, `halted`, `halt_reason` and ST, and the reading changes nothing; a cell is on exactly when it is not 0. -/
def Obligations.SurfaceShowsTheScreen : Prop :=
  (∀ h : Session, h.apply .readSurface = .next h) ∧
  (∀ c : BitVec 2, cellOn c = true ↔ c ≠ 0) ∧
  ∀ s : State, s.surface.hires = s.hires ∧ s.surface.width = (if s.hires then 128 else 64) ∧
    s.surface.height = (if s.hires then 64 else 32) ∧ s.surface.cells.length = s.height ∧
    (∀ row ∈ s.surface.cells, row.length = s.width) ∧
    (∀ x y, x < s.width → y < s.height → (s.surface.cells.getD y []).getD x 0 = s.display.cell x y) ∧
    s.surface.redraw = s.redraw ∧ s.surface.halted = s.halted ∧ s.surface.haltReason = s.haltReason ∧
    s.surface.st = s.st

/-- R80: a step of a halted engine changes nothing. -/
def Obligations.HaltedStepDoesNothing : Prop := ∀ s : State, s.halted = true → step s = .next s

/-- R29, R153, R172: no sequence of host operations without `init` changes anything of a halted engine but the timers,
`redraw` and the key snapshot, or ends the halt. That the timers can still be ticked is the spec's decision D24. -/
def Obligations.HaltedUntilInit : Prop :=
  ∀ (ops : List HostOp) (h h' : Session), h.machine.halted = true → HostOp.init ∉ ops → h.loadOpen = false →
    h.run ops = .next h' →
    h'.machine = { h.machine with
      dt := h'.machine.dt, st := h'.machine.st, redraw := h'.machine.redraw, keys := h'.machine.keys }

/-! ## The step cycle -/

/-- R129: FX0A sets the waiting register, queries no key and changes nothing else. -/
def Obligations.KeyWaitBegins : Prop := ∀ (s : State) (x : Reg), exec (.ldVxK x) s = .next { s with waiting := some x }

/-- R81: while the engine waits, a step with no key pressed changes nothing, and a step with a key pressed writes the
lowest one's index, key 0 like any other, and ends the wait, with `pc` and everything else as it was. That a key held
down ends the wait at once is the spec's decision D23, and that the step which ends it runs no instruction is D37. The
keys are read from the snapshot, which is a field of the model's own (log entry 2). -/
def Obligations.KeyWaitPolls : Prop :=
  ∀ (s : State) (r : Reg), s.halted = false → s.waiting = some r →
    ((∀ k, s.pressed k = false) → step s = .next s) ∧
    (∀ k : Nibble, s.pressed k = true → (∀ j : Nibble, j.toNat < k.toNat → s.pressed j = false) →
      ∃ t, step s = .next t ∧ t = { s with v := t.v, waiting := none } ∧
        (∀ q, t.getV q = if q = r then BitVec.ofNat 8 k.toNat else s.getV q))

/-- R82: when the bytes at `pc` decode to an instruction and `pc` can be advanced past it, a step is that
instruction's meaning on the state with `pc` advanced by the instruction's own length. That `pc` cannot be advanced
past 0xFFFF is the spec's decision D3. -/
def Obligations.StepRunsTheDecodedInstruction : Prop :=
  ∀ (s : State) (i : Instr) (rest : List Byte), Running s →
    decode (s.bytesFrom s.pc.toNat 4) = .ok (i, rest) → s.pc.toNat + (encodeBytes i).length ≤ 0xFFFF →
    step s = exec i { s with pc := BitVec.ofNat 16 (s.pc.toNat + (encodeBytes i).length) }

/-- R82, R83, R147, R154: the fetch and advance checks in their order, and an Unknown word. `w` is the big-endian word
at `pc`. The checks and their order are the spec's decisions D3 and D33, and the Unknown word's halt with `pc`
advanced is D5. The address an OutOfBounds reports is that of the failing check, A + 3 for F000, where R146's table
speaks of the first address out of range (log entry 13). -/
def Obligations.StepCycleFaults : Prop :=
  ∀ (s : State) (w : Word), Running s → w = s.byteAt s.pc.toNat ++ s.byteAt (s.pc.toNat + 1) →
    (s.pc = 0xFFFF → step s = .next (haltedBy s (.outOfBounds .fetch 0x10000) s.pc)) ∧
    (s.pc ≠ 0xFFFF → w = 0xF000 → 0xFFFF < s.pc.toNat + 3 →
      step s = .next (haltedBy s (.outOfBounds .fetch (s.pc.toNat + 3)) s.pc)) ∧
    (w = 0xF000 → s.pc.toNat + 3 = 0xFFFF → step s = .next (haltedBy s (.outOfBounds .pc 0x10000) s.pc)) ∧
    (w ≠ 0xF000 → s.pc.toNat + 1 = 0xFFFF → step s = .next (haltedBy s (.outOfBounds .pc 0x10000) s.pc)) ∧
    (s.pc.toNat + 2 ≤ 0xFFFF → (∀ r ∈ opcodeTable, r.hit w = false) →
      step s = .next (haltedBy { s with pc := s.pc + 2 } (.unknownOpcode w s.pc) s.pc))

/-- R62, R175: a write is seen by the next fetch: bytes of an instruction stored at `pc` are the instruction the next step
runs (the spec's decision D27). -/
def Obligations.FetchSeesTheLatestWrite : Prop :=
  ∀ (s : State) (i : Instr), Running s → s.pc.toNat + (encodeBytes i).length ≤ 0xFFFF →
    step (s.setBytes s.pc.toNat (encodeBytes i)) =
      exec i { s.setBytes s.pc.toNat (encodeBytes i) with
        pc := BitVec.ofNat 16 (s.pc.toNat + (encodeBytes i).length) }

/-! ## Encoding -/

/-- R70: the known instructions are exactly the 48 rows: a word is of the row it matches and of no other, and a word
of no row is Unknown. The patterns the spec marks GK are its own reading of the families the source names
(93_implementation_defined.md). -/
def Obligations.DecoderIsTheOpcodeTable : Prop :=
  opcodeTable.length = 48 ∧
  ∀ w nnnn : Word,
    (∀ i, classify w nnnn = .ok i → rowOf i ∈ opcodeTable ∧ (rowOf i).hit w = true) ∧
    (∀ r ∈ opcodeTable, r.hit w = true → ∃ i, classify w nnnn = .ok i ∧ rowOf i = r) ∧
    (∀ r ∈ opcodeTable, ∀ q ∈ opcodeTable, r.hit w = true → q.hit w = true → r = q) ∧
    ((∀ r ∈ opcodeTable, r.hit w = false) → classify w nnnn = .error (.unknown w))

/-- R64–R70: decoding the bytes of any instruction gives it back with every operand, and leaves what follows. -/
def Obligations.DecodeAfterEncode : Prop :=
  ∀ (i : Instr) (rest : List Byte), decode (encodeBytes i ++ rest) = .ok (i, rest)

/-- R65, R66, R69: the bytes an instruction is decoded from are the ones it encodes to: no bit is dropped. -/
def Obligations.EncodeAfterDecode : Prop :=
  ∀ (bs rest : List Byte) (i : Instr), decode bs = .ok (i, rest) → bs = encodeBytes i ++ rest

/-- Words the spec writes out (R65, R70, R87–R144's examples), decoded. -/
def Obligations.SpecWordsDecode : Prop :=
  decode [0x60, 0x05] = .ok (.ldImm 0 5, []) ∧ decode [0x70, 0x03] = .ok (.addImm 0 3, []) ∧
  decode [0x8F, 0xE4] = .ok (.addReg 15 14, []) ∧ decode [0x00, 0xE0] = .ok (.cls, []) ∧
  decode [0x00, 0xCF] = .ok (.scd 15, []) ∧ decode [0x00, 0xEE] = .ok (.ret, []) ∧
  decode [0x22, 0x10] = .ok (.call 0x210, []) ∧ decode [0x53, 0x40] = .ok (.seReg 3 4, []) ∧
  decode [0x54, 0x32] = .ok (.save 4 3, []) ∧ decode [0xB2, 0x34] = .ok (.jpOffset 0x234, []) ∧
  decode [0xD1, 0x2A] = .ok (.drw 1 2 10, []) ∧ decode [0xE1, 0x9E] = .ok (.skp 1, []) ∧
  decode [0xF3, 0x0A] = .ok (.ldVxK 3, []) ∧ decode [0xF2, 0x33] = .ok (.ldB 2, []) ∧
  decode [0xF0, 0x00, 0x12, 0x34] = .ok (.ldILong 0x1234, []) ∧ decode [0xF1, 0x75] = .ok (.saveFlags 1, []) ∧
  decode [0xF1, 0x00] = .error (.unknown 0xF100) ∧ decode [0x01, 0x23] = .error (.unknown 0x0123)

/-- R63, R78, R79: the record the decoder makes of the bytes at an address for the host's look-ahead, a function of memory
alone, and none exactly where the fetch would read past 0xFFFF. `w` and `n` are the big-endian words at `a` and `a + 2`. -/
def Obligations.LookAheadMakesTheRecord : Prop :=
  ∀ (s : State) (a : Nat) (w n : Word), w = s.byteAt a ++ s.byteAt (a + 1) →
    n = s.byteAt (a + 2) ++ s.byteAt (a + 3) →
    (0xFFFF < a + 1 → s.lookAhead a = none) ∧ (w = 0xF000 → 0xFFFF < a + 3 → s.lookAhead a = none) ∧
    (w = 0xF000 → a + 3 ≤ 0xFFFF →
      s.lookAhead a = some { opcode := w, length := 4, nnnn := some n, tag := some (.ldILong n) }) ∧
    (w ≠ 0xF000 → a + 1 ≤ 0xFFFF →
      s.lookAhead a = some { opcode := w, length := 2, nnnn := none, tag := (classify w 0).toOption })

/-! ## Invariants -/

/-- Reset meets the invariant. -/
def Obligations.ResetMeetsTheInvariant : Prop := StateInv State.reset

/-- Every step keeps the invariant: canonical memory, a stack of STACK_DEPTH entries with sp in range and zeros above
it, no pixel outside the screen, and a halt reason exactly while halted. -/
def Obligations.StepKeepsTheInvariant : Prop := ∀ s t : State, StateInv s → step s = .next t → StateInv t

/-- From every state that meets the invariant a step answers a next state: no ordinary data ends a run. That a fault of
the spec is a next state is the model's form (log entry 4), and so is the one fault it has instead, `noStackSlot`, which
the invariant rules out (log entry 6). -/
def Obligations.StepAlwaysAnswers : Prop := ∀ s : State, StateInv s → ∃ t, step s = .next t

/-- The first `init` under allowed parameters meets the invariant, and from every session that meets it a host operation
answers one that meets it, or is a `load` refused for its size (the spec's decision D29) or out of its window (D30 and
ruling U11; log entry 7): never a fault. So any sequence of host operations keeps the invariant. That a session
begins right after an `init` is log entry 14. -/
def Obligations.SessionsKeepTheInvariant : Prop :=
  (∀ p : Params, p.wf = true → StateInv (Session.start p).machine) ∧
  (∀ (h : Session) (op : HostOp), StateInv h.machine →
    match h.apply op with
    | .next h' => StateInv h'.machine
    | .fault _ => False
    | .refused r => ∃ image, op = .load image ∧
        ((r = .imageTooLarge ∧ h.loadOpen = true ∧ 0xFE00 < image.length) ∨
          (r = .loadNotAllowed ∧ h.loadOpen = false))) ∧
  (∀ (h : Session) (ops : List HostOp), StateInv h.machine →
    match h.run ops with
    | .next h' => StateInv h'.machine
    | .fault _ => False
    | .refused r => r = .imageTooLarge ∨ r = .loadNotAllowed)

/-! ## What no other instruction changes -/

/-- R17, R20, R22–R27, R30: each special register is changed only by the instructions the spec names for it; and no
instruction changes the model's own parameters and key snapshot (log entries 1 and 2), and CXNN alone uses up a draw
(log entry 3). -/
def Obligations.SpecialRegistersHaveTheirWriters : Prop :=
  ∀ (i : Instr) (s t : State), exec i s = .next t →
    ((∀ n, i ≠ .ldI n) → (∀ n, i ≠ .ldILong n) → (∀ x, i ≠ .addI x) → (∀ x, i ≠ .ldF x) → (∀ x, i ≠ .ldHf x) →
      t.i = s.i) ∧
    (i ≠ .ret → (∀ n, i ≠ .call n) → t.stack = s.stack ∧ t.sp = s.sp) ∧
    ((∀ x, i ≠ .ldDtVx x) → t.dt = s.dt) ∧ ((∀ x, i ≠ .ldStVx x) → t.st = s.st) ∧
    ((∀ x, i ≠ .saveFlags x) → t.flags = s.flags) ∧ ((∀ x, i ≠ .plane x) → t.planeMask = s.planeMask) ∧
    (i ≠ .lores → i ≠ .hires → t.hires = s.hires) ∧ ((∀ x, i ≠ .ldVxK x) → t.waiting = s.waiting) ∧
    t.params = s.params ∧ t.keys = s.keys ∧ ((∀ x nn, i ≠ .rnd x nn) → t.draws = s.draws)

/-- R15, R16: a general register is changed only by an instruction that has it as a destination, or, for VF, by one of
the six that write VF as a side effect. -/
def Obligations.GeneralRegisterFrame : Prop :=
  ∀ (i : Instr) (s t : State) (r : Reg), exec i s = .next t → ¬writesReg i r → t.getV r = s.getV r

/-- R46: only FX33, FX55 and 5XY2 write memory, and only the bytes from I upward that they store; for every other
instruction every byte of memory reads as before. -/
def Obligations.MemoryFrame : Prop :=
  ∀ (i : Instr) (s t : State) (a : Nat), exec i s = .next t →
    (a < s.i.toNat ∨ s.i.toNat + storedBytes i ≤ a) → t.byteAt a = s.byteAt a

/-- R33, R163: the display changes only under the eight display-mutating instructions, which set `redraw` when they
complete; no other instruction changes `redraw`, and none clears it. These are the spec's decisions D21 and D36. -/
def Obligations.RedrawMarksDisplayInstructions : Prop :=
  ∀ (i : Instr) (s t : State), exec i s = .next t →
    (s.redraw = true → t.redraw = true) ∧
    ((i = .cls ∨ (∃ n, i = .scd n) ∨ (∃ n, i = .scu n) ∨ i = .scr ∨ i = .scl ∨ i = .lores ∨ i = .hires) →
      t.redraw = true) ∧
    ((∃ x y n, i = .drw x y n) → t.redraw = true ∨ (t.display = s.display ∧ ∃ k, t = haltedBy s k (s.pc - 2))) ∧
    (i ≠ .cls → (∀ n, i ≠ .scd n) → (∀ n, i ≠ .scu n) → i ≠ .scr → i ≠ .scl → i ≠ .lores → i ≠ .hires →
      (∀ x y n, i ≠ .drw x y n) → t.display = s.display ∧ t.redraw = s.redraw)

/-- R9, R29, R152: an instruction that halts a Running engine is 00FD, or has taken a fault and then changed nothing
but the halt and its reason, recorded with the address A it was fetched from. These are the spec's decisions D2 and
D32. -/
def Obligations.FaultsLeaveNoPartialEffect : Prop :=
  ∀ (i : Instr) (s t : State), s.halted = false → exec i s = .next t → t.halted = true →
    (i = .exit ∧ t = { s with halted := true, haltReason := some .exit }) ∨
    ∃ k, t = haltedBy s k (s.pc - 2)

/-- R23: no instruction reads ST: with another value of ST, an instruction that does not set it has the same effect. -/
def Obligations.SoundTimerIsNeverRead : Prop :=
  ∀ (i : Instr) (s t : State) (b : Byte), (∀ x, i ≠ .ldStVx x) → exec i s = .next t →
    exec i { s with st := b } = .next { t with st := b }

/-! ## Arithmetic and logic -/

/-- R99, R101: the loads of a register. -/
def Obligations.RegisterLoads : Prop :=
  ∀ (s : State) (x y : Reg) (nn : Byte),
    (∃ t, exec (.ldImm x nn) s = .next t ∧ OnlyRegs s t fun r => if r = x then nn else s.getV r) ∧
    (∃ t, exec (.ldReg x y) s = .next t ∧ OnlyRegs s t fun r => if r = x then s.getV y else s.getV r)

/-- R100, R102–R104: the forms that leave VF alone: add immediate, wrapping, and the bitwise operations. That they
write no flag is the spec's decisions D9 and D10. -/
def Obligations.FlaglessArithmetic : Prop :=
  ∀ (s : State) (x y : Reg) (nn : Byte),
    (∃ t, exec (.addImm x nn) s = .next t ∧
      OnlyRegs s t fun r => if r = x then BitVec.ofNat 8 (((s.getV x).toNat + nn.toNat) % 256) else s.getV r) ∧
    (∃ t, exec (.orReg x y) s = .next t ∧ OnlyRegs s t fun r => if r = x then s.getV x ||| s.getV y else s.getV r) ∧
    (∃ t, exec (.andReg x y) s = .next t ∧ OnlyRegs s t fun r => if r = x then s.getV x &&& s.getV y else s.getV r) ∧
    (∃ t, exec (.xorReg x y) s = .next t ∧ OnlyRegs s t fun r => if r = x then s.getV x ^^^ s.getV y else s.getV r)

/-- R105: add with VF the carry, written before V[X], so that the sum wins when X = F, and an operand taken from VF is the
value before. -/
def Obligations.AdditionSetsCarry : Prop :=
  ∀ (s : State) (x y : Reg) (a b : Nat), a = (s.getV x).toNat → b = (s.getV y).toNat →
    ∃ t, exec (.addReg x y) s = .next t ∧ OnlyRegs s t fun r =>
      if r = x then BitVec.ofNat 8 ((a + b) % 256) else if r = VF then (if 255 < a + b then 1 else 0) else s.getV r

/-- R106, R108: the two subtractions, with VF the absence of a borrow, written before V[X], so that the difference wins
when X = F (the spec's decision D8). -/
def Obligations.SubtractionsSetNoBorrow : Prop :=
  ∀ (s : State) (x y : Reg) (a b : Nat), a = (s.getV x).toNat → b = (s.getV y).toNat →
    (∃ t, exec (.sub x y) s = .next t ∧ OnlyRegs s t fun r =>
      if r = x then BitVec.ofNat 8 ((a + 256 - b) % 256) else if r = VF then (if b ≤ a then 1 else 0) else s.getV r) ∧
    (∃ t, exec (.subn x y) s = .next t ∧ OnlyRegs s t fun r =>
      if r = x then BitVec.ofNat 8 ((b + 256 - a) % 256) else if r = VF then (if a ≤ b then 1 else 0) else s.getV r)

/-- R107, R109: the shifts by one of V[X] in place, with VF the bit shifted out, written before V[X]; V[Y] is not
read. The order for X = F is the spec's decision D8. -/
def Obligations.ShiftsSetVF : Prop :=
  ∀ (s : State) (x y : Reg) (a : Nat), a = (s.getV x).toNat →
    (∃ t, exec (.shr x y) s = .next t ∧ OnlyRegs s t fun r =>
      if r = x then BitVec.ofNat 8 (a / 2) else if r = VF then BitVec.ofNat 8 (a % 2) else s.getV r) ∧
    (∃ t, exec (.shl x y) s = .next t ∧ OnlyRegs s t fun r =>
      if r = x then BitVec.ofNat 8 (2 * a % 256) else if r = VF then BitVec.ofNat 8 (a / 128) else s.getV r)

/-- R111: V[X] receives a byte that is 0 wherever NN is 0, whatever byte is drawn; the draw is used up, and nothing
else changes. The byte drawn is the model's free value (log entry 3), and the statement holds for every value of it.
-/
def Obligations.RandomUnderTheMask : Prop :=
  ∀ (s : State) (x : Reg) (nn : Byte), ∃ t, exec (.rnd x nn) s = .next t ∧
    t = { s with v := t.v, draws := s.draws + 1 } ∧ t.getV x = Config.randomByte s.draws &&& nn ∧
    (∀ k, nn.getLsbD k = false → (t.getV x).getLsbD k = false) ∧ (∀ r, r ≠ x → t.getV r = s.getV r)

/-! ## Control transfer -/

/-- R90: the absolute jump. -/
def Obligations.AbsoluteJump : Prop :=
  ∀ (s : State) (nnn : Addr12), exec (.jp nnn) s = .next { s with pc := BitVec.ofNat 16 nnn.toNat }

/-- R91: BNNN adds V[X], X being bits 11:8 of NNN, or V0, by the parameter (the spec's decision D13), and the sum is not
masked (D14). -/
def Obligations.OffsetJump : Prop :=
  ∀ (s : State) (nnn : Addr12), ∃ t, exec (.jpOffset nnn) s = .next t ∧ t = { s with pc := t.pc } ∧
    (s.params.jumpOffsetReg = .vx →
      t.pc.toNat = nnn.toNat + (s.getV (BitVec.ofNat 4 (nnn.toNat / 256))).toNat) ∧
    (s.params.jumpOffsetReg = .v0 → t.pc.toNat = nnn.toNat + (s.getV 0).toNat)

/-- R89, R148: CALL pushes the address after it and jumps, or takes StackOverflow with the stack full. The fault is
the spec's decision D4. -/
def Obligations.CallPushesOrOverflows : Prop :=
  ∀ (s : State) (nnn : Addr12), s.stack.length = s.params.stackDepth →
    (s.sp < s.params.stackDepth → exec (.call nnn) s =
      .next { s with stack := s.stack.set s.sp s.pc, sp := s.sp + 1, pc := BitVec.ofNat 16 nnn.toNat }) ∧
    (s.params.stackDepth ≤ s.sp → exec (.call nnn) s = .next (haltedBy s (.stackOverflow (s.pc - 2)) (s.pc - 2)))

/-- R87, R149: RET restores the popped address and clears its slot, or takes StackUnderflow with the stack empty. The
fault is the spec's decision D4. -/
def Obligations.ReturnPopsOrUnderflows : Prop :=
  ∀ s : State, s.sp ≤ s.stack.length →
    (1 ≤ s.sp → exec .ret s =
      .next { s with sp := s.sp - 1, pc := s.stack.getD (s.sp - 1) 0, stack := s.stack.set (s.sp - 1) 0 }) ∧
    (s.sp = 0 → exec .ret s = .next (haltedBy s (.stackUnderflow (s.pc - 2)) (s.pc - 2)))

/-- R87, R89 (the source's call-and-return property): from a state that meets the invariant, a RET after a CALL that
did not overflow, wherever it stands, gives back exactly the state before the CALL's effect: `pc` is the address after
the CALL and the stack is as it was. -/
def Obligations.ReturnUndoesCall : Prop :=
  ∀ (s t : State) (nnn : Addr12) (q : Word), StateInv s → s.sp < s.params.stackDepth → exec (.call nnn) s = .next t →
    exec .ret { t with pc := q } = .next s

/-- R88, R92–R95: the four conditional skips. That the look-ahead and its faults come only when the condition holds is
the spec's decision D31. -/
def Obligations.ConditionalSkips : Prop :=
  ∀ (s : State) (x y : Reg) (nn : Byte),
    SkipsNext s (s.getV x = nn) (exec (.seImm x nn) s) ∧ SkipsNext s (s.getV x ≠ nn) (exec (.sneImm x nn) s) ∧
    SkipsNext s (s.getV x = s.getV y) (exec (.seReg x y) s) ∧
    SkipsNext s (s.getV x ≠ s.getV y) (exec (.sneReg x y) s)

/-- R127, R128, R174: the key skips, always 2 bytes, on the key the low 4 bits of V[X] name. The key is read from the
step's snapshot (the spec's decision D23). -/
def Obligations.KeySkips : Prop :=
  ∀ (s : State) (x : Reg) (k : Nibble), k.toNat = (s.getV x).toNat % 16 →
    SkipsTwo s (s.pressed k = true) (exec (.skp x) s) ∧ SkipsTwo s (s.pressed k = false) (exec (.sknp x) s)

/-- R96, R80: 00FD halts cleanly with `pc` at A + 2 and nothing else changed, and the next step changes nothing. These
are the spec's decision D32. -/
def Obligations.ExitHaltsCleanly : Prop :=
  ∀ s : State, ∃ t, exec .exit s = .next t ∧ t = { s with halted := true, haltReason := some .exit } ∧
    step t = .next t

/-! ## Timers, index register and fonts -/

/-- R130–R132: the timer instructions. -/
def Obligations.TimerInstructions : Prop :=
  ∀ (s : State) (x : Reg),
    (∃ t, exec (.ldVxDt x) s = .next t ∧ OnlyRegs s t fun r => if r = x then s.dt else s.getV r) ∧
    exec (.ldDtVx x) s = .next { s with dt := s.getV x } ∧ exec (.ldStVx x) s = .next { s with st := s.getV x }

/-- R133, R134: the loads of I, and the whole step of the 4-byte form at `pc`, which leaves `pc` at A + 4 (R66, R82). That
the 4-byte form is the opcode F000 is the spec's general knowledge (K3, log entry 10), and that NNNN is big-endian is
its inference (R50). -/
def Obligations.IndexLoads : Prop :=
  (∀ (s : State) (nnn : Addr12), exec (.ldI nnn) s = .next { s with i := BitVec.ofNat 16 nnn.toNat }) ∧
  (∀ (s : State) (nnnn : Word), exec (.ldILong nnnn) s = .next { s with i := nnnn }) ∧
  (∀ s : State, Running s → s.byteAt s.pc.toNat = 0xF0 → s.byteAt (s.pc.toNat + 1) = 0x00 →
    s.pc.toNat + 4 ≤ 0xFFFF →
    step s = .next { s with
      i := s.byteAt (s.pc.toNat + 2) ++ s.byteAt (s.pc.toNat + 3), pc := BitVec.ofNat 16 (s.pc.toNat + 4) })

/-- R135: the addition to I, which wraps at 16 bits and sets no flag (the spec's decision D15). -/
def Obligations.IndexAddition : Prop :=
  ∀ (s : State) (x : Reg),
    exec (.addI x) s = .next { s with i := BitVec.ofNat 16 ((s.i.toNat + (s.getV x).toNat) % 65536) }

/-- R136, R137: the font instructions, with the base as a parameter. That the high nibble is ignored, and the bases,
are the spec's decision D16. -/
def Obligations.FontInstructions : Prop :=
  ∀ (s : State) (x : Reg), s.params.wf = true →
    (∃ t, exec (.ldF x) s = .next t ∧ t = { s with i := t.i } ∧
      t.i.toNat = s.params.fontSmallBase + 5 * ((s.getV x).toNat % 16)) ∧
    (∃ t, exec (.ldHf x) s = .next t ∧ t = { s with i := t.i } ∧
      t.i.toNat = s.params.fontSmallBase + 80 + 10 * ((s.getV x).toNat % 16))

/-! ## Memory transfers -/

/-- R138: FX33 stores the hundreds, tens and ones at I, I + 1 and I + 2 and changes nothing else, or takes
OutOfBounds(write, I + 2) with nothing stored. The fault is the spec's decision D2, and the address it reports at
I = 0xFFFF follows the pseudocode (log entry 13). -/
def Obligations.BcdStoresThreeDigits : Prop :=
  ∀ (s : State) (x : Reg) (v : Nat), v = (s.getV x).toNat →
    (s.i.toNat + 2 ≤ 0xFFFF → ∃ t, exec (.ldB x) s = .next t ∧ OnlyMem s t fun a =>
      if a = s.i.toNat then BitVec.ofNat 8 (v / 100) else if a = s.i.toNat + 1 then BitVec.ofNat 8 (v / 10 % 10)
      else if a = s.i.toNat + 2 then BitVec.ofNat 8 (v % 10) else s.byteAt a) ∧
    (0xFFFF < s.i.toNat + 2 → exec (.ldB x) s =
      .next (haltedBy s (.outOfBounds .write (s.i.toNat + 2)) (s.pc - 2)))

/-- R139, R141: FX55 stores V0..VX, and 5XY2 the registers from the lower of X and Y to the higher, at I upward, or
takes OutOfBounds(write, last address) with nothing stored. The fault is the spec's decision D2, and that it reports
the last address of the range follows the pseudocode (log entry 13). -/
def Obligations.RegisterStores : Prop :=
  ∀ (s : State) (i : Instr) (lo n : Nat),
    ((∃ x, i = .storeRegs x ∧ lo = 0 ∧ n = x.toNat) ∨
      (∃ x y, i = .save x y ∧ lo = min x.toNat y.toNat ∧ n = max x.toNat y.toNat - lo)) →
    (s.i.toNat + n ≤ 0xFFFF → ∃ t, exec i s = .next t ∧ OnlyMem s t fun a =>
      if s.i.toNat ≤ a ∧ a ≤ s.i.toNat + n then s.getV (BitVec.ofNat 4 (lo + (a - s.i.toNat))) else s.byteAt a) ∧
    (0xFFFF < s.i.toNat + n → exec i s = .next (haltedBy s (.outOfBounds .write (s.i.toNat + n)) (s.pc - 2)))

/-- R140, R142: FX65 and 5XY3 load the same ranges from I upward, or take OutOfBounds(read, last address) with no
register written. The fault is the spec's decision D2, and that it reports the last address of the range follows the
pseudocode (log entry 13). -/
def Obligations.RegisterLoadsFromMemory : Prop :=
  ∀ (s : State) (i : Instr) (lo n : Nat),
    ((∃ x, i = .loadRegs x ∧ lo = 0 ∧ n = x.toNat) ∨
      (∃ x y, i = .load x y ∧ lo = min x.toNat y.toNat ∧ n = max x.toNat y.toNat - lo)) →
    (s.i.toNat + n ≤ 0xFFFF → ∃ t, exec i s = .next t ∧ OnlyRegs s t fun r =>
      if lo ≤ r.toNat ∧ r.toNat ≤ lo + n then s.byteAt (s.i.toNat + (r.toNat - lo)) else s.getV r) ∧
    (0xFFFF < s.i.toNat + n → exec i s = .next (haltedBy s (.outOfBounds .read (s.i.toNat + n)) (s.pc - 2)))

/-- R143, R144: FX75 and FX85 copy V0..VX to the flag bank and back, for every X. That every X is allowed is the
spec's decision D18. -/
def Obligations.FlagBankTransfers : Prop :=
  ∀ (s : State) (x : Reg),
    (∃ t, exec (.saveFlags x) s = .next t ∧ t = { s with flags := t.flags } ∧
      ∀ r, t.getFlag r = if r.toNat ≤ x.toNat then s.getV r else s.getFlag r) ∧
    (∃ t, exec (.restoreFlags x) s = .next t ∧
      OnlyRegs s t fun r => if r.toNat ≤ x.toNat then s.getFlag r else s.getV r)

/-- R59, R139–R142: a 5XY3 after a 5XY2 of the same two registers, named in the same order or the other and whatever V
holds by then, gives every register of the range back. -/
def Obligations.LoadAfterSaveRestores : Prop :=
  ∀ (s t : State) (x y : Reg) (v : Vector Byte 16) (i : Instr), s.i.toNat + storedBytes (.save x y) ≤ 0x10000 →
    exec (.save x y) s = .next t → (i = .load x y ∨ i = .load y x) →
    ∃ u, exec i { t with v := v } = .next u ∧ u.mem = t.mem ∧
      ∀ r : Reg, min x.toNat y.toNat ≤ r.toNat → r.toNat ≤ max x.toNat y.toNat → u.getV r = s.getV r

/-! ## Display -/

/-- R114, R118: 00E0 darkens every pixel of the selected planes on the W × H screen, keeps every other pixel, and sets
`redraw`. That the mask 0 selects no plane is the spec's decision D7, and `redraw` even then is D21. -/
def Obligations.ClearDarkensTheSelectedPlanes : Prop :=
  ∀ s : State, ∃ t, exec .cls s = .next t ∧
    t = { s with display := t.display, redraw := true } ∧
    ∀ p x y, (selected s.planeMask p → x < s.width → y < s.height → t.display.pixel p x y = false) ∧
      (¬(selected s.planeMask p ∧ x < s.width ∧ y < s.height) → t.display.pixel p x y = s.display.pixel p x y)

/-- R116, R120–R123: the four scrolls: on the screen, a selected plane's pixel becomes the one (dx, dy) before it,
from the display before the scroll, dark where that is off the screen; every other pixel stays. The amount 4 and the
snapshot are the spec's decision D19, `redraw` is D21, and that the mask 0 selects no plane is D7. -/
def Obligations.ScrollsMoveTheSelectedPlanes : Prop :=
  ∀ (s : State) (i : Instr) (dx dy : Int),
    ((∃ n : Nibble, i = .scd n ∧ dx = 0 ∧ dy = n.toNat) ∨ (∃ n : Nibble, i = .scu n ∧ dx = 0 ∧ dy = -n.toNat) ∨
      (i = .scr ∧ dx = 4 ∧ dy = 0) ∨ (i = .scl ∧ dx = -4 ∧ dy = 0)) →
    ∃ t, exec i s = .next t ∧ t = { s with display := t.display, redraw := true } ∧
      ∀ p (x y : Nat),
        (selected s.planeMask p → x < s.width → y < s.height →
          (∀ sx sy : Nat, (sx : Int) = x - dx → (sy : Int) = y - dy → sx < s.width → sy < s.height →
            t.display.pixel p x y = s.display.pixel p sx sy) ∧
          (¬(∃ sx sy : Nat, (sx : Int) = x - dx ∧ (sy : Int) = y - dy ∧ sx < s.width ∧ sy < s.height) →
            t.display.pixel p x y = false)) ∧
        (¬(selected s.planeMask p ∧ x < s.width ∧ y < s.height) → t.display.pixel p x y = s.display.pixel p x y)

/-- R124, R125: 00FE and 00FF set the mode, darken the whole array in both planes whatever the mask and the old mode,
and set `redraw`; nothing else changes. That both planes are always cleared is the spec's decision D20. -/
def Obligations.ResolutionChangesClearEverything : Prop :=
  ∀ (s : State) (i : Instr) (b : Bool), ((i = .lores ∧ b = false) ∨ (i = .hires ∧ b = true)) →
    ∃ t, exec i s = .next t ∧ t = { s with hires := b, display := t.display, redraw := true } ∧
      (∀ x y, t.display.cell x y = 0) ∧ t.width = (if b then 128 else 64) ∧ t.height = (if b then 64 else 32)

/-- R126: FX01 selects the planes by the low two bits of V[X], 0 included, and changes nothing else. The value 0 is
the spec's decision D7. -/
def Obligations.PlaneSelection : Prop :=
  ∀ (s : State) (x : Reg), ∃ t, exec (.plane x) s = .next t ∧ t = { s with planeMask := t.planeMask } ∧
    t.planeMask.toNat = (s.getV x).toNat % 4

/-- R112, R115, R117, R119: DXYN inverts, in each selected plane, exactly the screen positions the sprite covers, each
wrapped on its own; VF is 1 when one of them was lit and 0 otherwise; `redraw` is set; the origin is read before VF is
written. With a sprite byte past 0xFFFF it takes OutOfBounds(read, last address) and changes nothing else. That VF is
cleared and the bit order of a row are the spec's decisions D11 and D12, the fault is D2, and VF = 0 with no plane selected is D7. The address it reports
follows the pseudocode (log entry 13), and so does VF, exactly, where R119's last corner case says otherwise (log entry
11). -/
def Obligations.DrawInvertsTheSprite : Prop :=
  ∀ (s : State) (x y : Reg) (n : Nibble) (x0 y0 len : Nat), x0 = (s.getV x).toNat → y0 = (s.getV y).toNat →
    len = (if n = 0 then 32 else n.toNat) →
    (s.i.toNat + len - 1 ≤ 0xFFFF → ∃ t, exec (.drw x y n) s = .next t ∧
      t = { s with display := t.display, redraw := true, v := t.v } ∧
      (∀ p a b, selected s.planeMask p ∧ spriteCovers s n x0 y0 a b →
        t.display.pixel p a b = !s.display.pixel p a b) ∧
      (∀ p a b, ¬(selected s.planeMask p ∧ spriteCovers s n x0 y0 a b) →
        t.display.pixel p a b = s.display.pixel p a b) ∧
      (∀ r, r ≠ VF → t.getV r = s.getV r) ∧
      ((∃ p a b, selected s.planeMask p ∧ spriteCovers s n x0 y0 a b ∧ s.display.pixel p a b = true) →
        t.getV VF = 1) ∧
      ((∀ p a b, selected s.planeMask p → spriteCovers s n x0 y0 a b → s.display.pixel p a b = false) →
        t.getV VF = 0)) ∧
    (0xFFFF < s.i.toNat + len - 1 → exec (.drw x y n) s =
      .next (haltedBy s (.outOfBounds .read (s.i.toNat + len - 1)) (s.pc - 2)))

/-- R119 (its last corner case, made exact): the same sprite drawn twice at the same place gives every pixel back, and
the second draw leaves VF = 1 exactly when one of the covered pixels was dark before the first. X and Y are not F,
since the first draw writes VF. The rule says of the second draw only that VF is 1; the exact condition is what its
pseudocode gives (log entry 11). -/
def Obligations.DrawTwiceRestores : Prop :=
  ∀ (s : State) (x y : Reg) (n : Nibble) (x0 y0 : Nat), x ≠ VF → y ≠ VF → x0 = (s.getV x).toNat →
    y0 = (s.getV y).toNat → s.i.toNat + (if n = 0 then 32 else n.toNat) ≤ 0x10000 →
    ∃ t u, exec (.drw x y n) s = .next t ∧ exec (.drw x y n) t = .next u ∧
      (∀ p a b, u.display.pixel p a b = s.display.pixel p a b) ∧
      (u.getV VF = 1 ↔ ∃ p a b, selected s.planeMask p ∧ spriteCovers s n x0 y0 a b ∧ s.display.pixel p a b = false)

/-- R113, R33, R118–R125: the planes a mask selects, in ascending order; and no draw, clear or scroll, nor any other
instruction but the two that set the resolution, changes a pixel of a plane that is not selected. That the mask 0
(R26) selects no plane is the spec's decision D7, that the other instructions mutate no display is D21, and the spec's
decisions are followed as log entry 10 says. -/
def Obligations.UnselectedPlanesAreUntouched : Prop :=
  planes 0 = [] ∧ planes 1 = [.one] ∧ planes 2 = [.two] ∧ planes 3 = [.one, .two] ∧
  ∀ (s t : State) (i : Instr) (p : PlaneId), exec i s = .next t → i ≠ .lores → i ≠ .hires →
    p ∉ planes s.planeMask → ∀ x y, t.display.pixel p x y = s.display.pixel p x y
end

