-- ==== Sys2Proof/Laws/State.lean ====
section
/-! SUPPORT. One lemma per field per update of State, each true by rfl, so that no later proof unfolds a record update,
and how the named updates write one field in another update's terms. -/

namespace Sys2Proof.Machine

variable (s : State)

/-! ## setV -/

@[simp] theorem State.setV_mem (r : Reg) (b : Byte) : (s.setV r b).mem = s.mem := rfl
@[simp] theorem State.setV_display (r : Reg) (b : Byte) : (s.setV r b).display = s.display := rfl
@[simp] theorem State.setV_v (r : Reg) (b : Byte) : (s.setV r b).v = s.v.set r.toNat b r.isLt := rfl
@[simp] theorem State.setV_flags (r : Reg) (b : Byte) : (s.setV r b).flags = s.flags := rfl
@[simp] theorem State.setV_i (r : Reg) (b : Byte) : (s.setV r b).i = s.i := rfl
@[simp] theorem State.setV_pc (r : Reg) (b : Byte) : (s.setV r b).pc = s.pc := rfl
@[simp] theorem State.setV_stack (r : Reg) (b : Byte) : (s.setV r b).stack = s.stack := rfl
@[simp] theorem State.setV_sp (r : Reg) (b : Byte) : (s.setV r b).sp = s.sp := rfl
@[simp] theorem State.setV_dt (r : Reg) (b : Byte) : (s.setV r b).dt = s.dt := rfl
@[simp] theorem State.setV_st (r : Reg) (b : Byte) : (s.setV r b).st = s.st := rfl
@[simp] theorem State.setV_planeMask (r : Reg) (b : Byte) : (s.setV r b).planeMask = s.planeMask := rfl
@[simp] theorem State.setV_hires (r : Reg) (b : Byte) : (s.setV r b).hires = s.hires := rfl
@[simp] theorem State.setV_redraw (r : Reg) (b : Byte) : (s.setV r b).redraw = s.redraw := rfl
@[simp] theorem State.setV_halted (r : Reg) (b : Byte) : (s.setV r b).halted = s.halted := rfl
@[simp] theorem State.setV_haltReason (r : Reg) (b : Byte) : (s.setV r b).haltReason = s.haltReason := rfl
@[simp] theorem State.setV_waiting (r : Reg) (b : Byte) : (s.setV r b).waiting = s.waiting := rfl
@[simp] theorem State.setV_params (r : Reg) (b : Byte) : (s.setV r b).params = s.params := rfl
@[simp] theorem State.setV_keys (r : Reg) (b : Byte) : (s.setV r b).keys = s.keys := rfl
@[simp] theorem State.setV_draws (r : Reg) (b : Byte) : (s.setV r b).draws = s.draws := rfl

/-! ## setFlag -/

@[simp] theorem State.setFlag_mem (r : Reg) (b : Byte) : (s.setFlag r b).mem = s.mem := rfl
@[simp] theorem State.setFlag_display (r : Reg) (b : Byte) : (s.setFlag r b).display = s.display := rfl
@[simp] theorem State.setFlag_v (r : Reg) (b : Byte) : (s.setFlag r b).v = s.v := rfl
@[simp] theorem State.setFlag_flags (r : Reg) (b : Byte) : (s.setFlag r b).flags = s.flags.set r.toNat b r.isLt := rfl
@[simp] theorem State.setFlag_i (r : Reg) (b : Byte) : (s.setFlag r b).i = s.i := rfl
@[simp] theorem State.setFlag_pc (r : Reg) (b : Byte) : (s.setFlag r b).pc = s.pc := rfl
@[simp] theorem State.setFlag_stack (r : Reg) (b : Byte) : (s.setFlag r b).stack = s.stack := rfl
@[simp] theorem State.setFlag_sp (r : Reg) (b : Byte) : (s.setFlag r b).sp = s.sp := rfl
@[simp] theorem State.setFlag_dt (r : Reg) (b : Byte) : (s.setFlag r b).dt = s.dt := rfl
@[simp] theorem State.setFlag_st (r : Reg) (b : Byte) : (s.setFlag r b).st = s.st := rfl
@[simp] theorem State.setFlag_planeMask (r : Reg) (b : Byte) : (s.setFlag r b).planeMask = s.planeMask := rfl
@[simp] theorem State.setFlag_hires (r : Reg) (b : Byte) : (s.setFlag r b).hires = s.hires := rfl
@[simp] theorem State.setFlag_redraw (r : Reg) (b : Byte) : (s.setFlag r b).redraw = s.redraw := rfl
@[simp] theorem State.setFlag_halted (r : Reg) (b : Byte) : (s.setFlag r b).halted = s.halted := rfl
@[simp] theorem State.setFlag_haltReason (r : Reg) (b : Byte) : (s.setFlag r b).haltReason = s.haltReason := rfl
@[simp] theorem State.setFlag_waiting (r : Reg) (b : Byte) : (s.setFlag r b).waiting = s.waiting := rfl
@[simp] theorem State.setFlag_params (r : Reg) (b : Byte) : (s.setFlag r b).params = s.params := rfl
@[simp] theorem State.setFlag_keys (r : Reg) (b : Byte) : (s.setFlag r b).keys = s.keys := rfl
@[simp] theorem State.setFlag_draws (r : Reg) (b : Byte) : (s.setFlag r b).draws = s.draws := rfl

/-! ## setI -/

@[simp] theorem State.setI_mem (w : Word) : (s.setI w).mem = s.mem := rfl
@[simp] theorem State.setI_display (w : Word) : (s.setI w).display = s.display := rfl
@[simp] theorem State.setI_v (w : Word) : (s.setI w).v = s.v := rfl
@[simp] theorem State.setI_flags (w : Word) : (s.setI w).flags = s.flags := rfl
@[simp] theorem State.setI_i (w : Word) : (s.setI w).i = w := rfl
@[simp] theorem State.setI_pc (w : Word) : (s.setI w).pc = s.pc := rfl
@[simp] theorem State.setI_stack (w : Word) : (s.setI w).stack = s.stack := rfl
@[simp] theorem State.setI_sp (w : Word) : (s.setI w).sp = s.sp := rfl
@[simp] theorem State.setI_dt (w : Word) : (s.setI w).dt = s.dt := rfl
@[simp] theorem State.setI_st (w : Word) : (s.setI w).st = s.st := rfl
@[simp] theorem State.setI_planeMask (w : Word) : (s.setI w).planeMask = s.planeMask := rfl
@[simp] theorem State.setI_hires (w : Word) : (s.setI w).hires = s.hires := rfl
@[simp] theorem State.setI_redraw (w : Word) : (s.setI w).redraw = s.redraw := rfl
@[simp] theorem State.setI_halted (w : Word) : (s.setI w).halted = s.halted := rfl
@[simp] theorem State.setI_haltReason (w : Word) : (s.setI w).haltReason = s.haltReason := rfl
@[simp] theorem State.setI_waiting (w : Word) : (s.setI w).waiting = s.waiting := rfl
@[simp] theorem State.setI_params (w : Word) : (s.setI w).params = s.params := rfl
@[simp] theorem State.setI_keys (w : Word) : (s.setI w).keys = s.keys := rfl
@[simp] theorem State.setI_draws (w : Word) : (s.setI w).draws = s.draws := rfl

/-! ## setPc -/

@[simp] theorem State.setPc_mem (w : Word) : (s.setPc w).mem = s.mem := rfl
@[simp] theorem State.setPc_display (w : Word) : (s.setPc w).display = s.display := rfl
@[simp] theorem State.setPc_v (w : Word) : (s.setPc w).v = s.v := rfl
@[simp] theorem State.setPc_flags (w : Word) : (s.setPc w).flags = s.flags := rfl
@[simp] theorem State.setPc_i (w : Word) : (s.setPc w).i = s.i := rfl
@[simp] theorem State.setPc_pc (w : Word) : (s.setPc w).pc = w := rfl
@[simp] theorem State.setPc_stack (w : Word) : (s.setPc w).stack = s.stack := rfl
@[simp] theorem State.setPc_sp (w : Word) : (s.setPc w).sp = s.sp := rfl
@[simp] theorem State.setPc_dt (w : Word) : (s.setPc w).dt = s.dt := rfl
@[simp] theorem State.setPc_st (w : Word) : (s.setPc w).st = s.st := rfl
@[simp] theorem State.setPc_planeMask (w : Word) : (s.setPc w).planeMask = s.planeMask := rfl
@[simp] theorem State.setPc_hires (w : Word) : (s.setPc w).hires = s.hires := rfl
@[simp] theorem State.setPc_redraw (w : Word) : (s.setPc w).redraw = s.redraw := rfl
@[simp] theorem State.setPc_halted (w : Word) : (s.setPc w).halted = s.halted := rfl
@[simp] theorem State.setPc_haltReason (w : Word) : (s.setPc w).haltReason = s.haltReason := rfl
@[simp] theorem State.setPc_waiting (w : Word) : (s.setPc w).waiting = s.waiting := rfl
@[simp] theorem State.setPc_params (w : Word) : (s.setPc w).params = s.params := rfl
@[simp] theorem State.setPc_keys (w : Word) : (s.setPc w).keys = s.keys := rfl
@[simp] theorem State.setPc_draws (w : Word) : (s.setPc w).draws = s.draws := rfl

/-! ## setDt -/

@[simp] theorem State.setDt_mem (b : Byte) : (s.setDt b).mem = s.mem := rfl
@[simp] theorem State.setDt_display (b : Byte) : (s.setDt b).display = s.display := rfl
@[simp] theorem State.setDt_v (b : Byte) : (s.setDt b).v = s.v := rfl
@[simp] theorem State.setDt_flags (b : Byte) : (s.setDt b).flags = s.flags := rfl
@[simp] theorem State.setDt_i (b : Byte) : (s.setDt b).i = s.i := rfl
@[simp] theorem State.setDt_pc (b : Byte) : (s.setDt b).pc = s.pc := rfl
@[simp] theorem State.setDt_stack (b : Byte) : (s.setDt b).stack = s.stack := rfl
@[simp] theorem State.setDt_sp (b : Byte) : (s.setDt b).sp = s.sp := rfl
@[simp] theorem State.setDt_dt (b : Byte) : (s.setDt b).dt = b := rfl
@[simp] theorem State.setDt_st (b : Byte) : (s.setDt b).st = s.st := rfl
@[simp] theorem State.setDt_planeMask (b : Byte) : (s.setDt b).planeMask = s.planeMask := rfl
@[simp] theorem State.setDt_hires (b : Byte) : (s.setDt b).hires = s.hires := rfl
@[simp] theorem State.setDt_redraw (b : Byte) : (s.setDt b).redraw = s.redraw := rfl
@[simp] theorem State.setDt_halted (b : Byte) : (s.setDt b).halted = s.halted := rfl
@[simp] theorem State.setDt_haltReason (b : Byte) : (s.setDt b).haltReason = s.haltReason := rfl
@[simp] theorem State.setDt_waiting (b : Byte) : (s.setDt b).waiting = s.waiting := rfl
@[simp] theorem State.setDt_params (b : Byte) : (s.setDt b).params = s.params := rfl
@[simp] theorem State.setDt_keys (b : Byte) : (s.setDt b).keys = s.keys := rfl
@[simp] theorem State.setDt_draws (b : Byte) : (s.setDt b).draws = s.draws := rfl

/-! ## setSt -/

@[simp] theorem State.setSt_mem (b : Byte) : (s.setSt b).mem = s.mem := rfl
@[simp] theorem State.setSt_display (b : Byte) : (s.setSt b).display = s.display := rfl
@[simp] theorem State.setSt_v (b : Byte) : (s.setSt b).v = s.v := rfl
@[simp] theorem State.setSt_flags (b : Byte) : (s.setSt b).flags = s.flags := rfl
@[simp] theorem State.setSt_i (b : Byte) : (s.setSt b).i = s.i := rfl
@[simp] theorem State.setSt_pc (b : Byte) : (s.setSt b).pc = s.pc := rfl
@[simp] theorem State.setSt_stack (b : Byte) : (s.setSt b).stack = s.stack := rfl
@[simp] theorem State.setSt_sp (b : Byte) : (s.setSt b).sp = s.sp := rfl
@[simp] theorem State.setSt_dt (b : Byte) : (s.setSt b).dt = s.dt := rfl
@[simp] theorem State.setSt_st (b : Byte) : (s.setSt b).st = b := rfl
@[simp] theorem State.setSt_planeMask (b : Byte) : (s.setSt b).planeMask = s.planeMask := rfl
@[simp] theorem State.setSt_hires (b : Byte) : (s.setSt b).hires = s.hires := rfl
@[simp] theorem State.setSt_redraw (b : Byte) : (s.setSt b).redraw = s.redraw := rfl
@[simp] theorem State.setSt_halted (b : Byte) : (s.setSt b).halted = s.halted := rfl
@[simp] theorem State.setSt_haltReason (b : Byte) : (s.setSt b).haltReason = s.haltReason := rfl
@[simp] theorem State.setSt_waiting (b : Byte) : (s.setSt b).waiting = s.waiting := rfl
@[simp] theorem State.setSt_params (b : Byte) : (s.setSt b).params = s.params := rfl
@[simp] theorem State.setSt_keys (b : Byte) : (s.setSt b).keys = s.keys := rfl
@[simp] theorem State.setSt_draws (b : Byte) : (s.setSt b).draws = s.draws := rfl

/-! ## setPlaneMask -/

@[simp] theorem State.setPlaneMask_mem (m : BitVec 2) : (s.setPlaneMask m).mem = s.mem := rfl
@[simp] theorem State.setPlaneMask_display (m : BitVec 2) : (s.setPlaneMask m).display = s.display := rfl
@[simp] theorem State.setPlaneMask_v (m : BitVec 2) : (s.setPlaneMask m).v = s.v := rfl
@[simp] theorem State.setPlaneMask_flags (m : BitVec 2) : (s.setPlaneMask m).flags = s.flags := rfl
@[simp] theorem State.setPlaneMask_i (m : BitVec 2) : (s.setPlaneMask m).i = s.i := rfl
@[simp] theorem State.setPlaneMask_pc (m : BitVec 2) : (s.setPlaneMask m).pc = s.pc := rfl
@[simp] theorem State.setPlaneMask_stack (m : BitVec 2) : (s.setPlaneMask m).stack = s.stack := rfl
@[simp] theorem State.setPlaneMask_sp (m : BitVec 2) : (s.setPlaneMask m).sp = s.sp := rfl
@[simp] theorem State.setPlaneMask_dt (m : BitVec 2) : (s.setPlaneMask m).dt = s.dt := rfl
@[simp] theorem State.setPlaneMask_st (m : BitVec 2) : (s.setPlaneMask m).st = s.st := rfl
@[simp] theorem State.setPlaneMask_planeMask (m : BitVec 2) : (s.setPlaneMask m).planeMask = m := rfl
@[simp] theorem State.setPlaneMask_hires (m : BitVec 2) : (s.setPlaneMask m).hires = s.hires := rfl
@[simp] theorem State.setPlaneMask_redraw (m : BitVec 2) : (s.setPlaneMask m).redraw = s.redraw := rfl
@[simp] theorem State.setPlaneMask_halted (m : BitVec 2) : (s.setPlaneMask m).halted = s.halted := rfl
@[simp] theorem State.setPlaneMask_haltReason (m : BitVec 2) : (s.setPlaneMask m).haltReason = s.haltReason := rfl
@[simp] theorem State.setPlaneMask_waiting (m : BitVec 2) : (s.setPlaneMask m).waiting = s.waiting := rfl
@[simp] theorem State.setPlaneMask_params (m : BitVec 2) : (s.setPlaneMask m).params = s.params := rfl
@[simp] theorem State.setPlaneMask_keys (m : BitVec 2) : (s.setPlaneMask m).keys = s.keys := rfl
@[simp] theorem State.setPlaneMask_draws (m : BitVec 2) : (s.setPlaneMask m).draws = s.draws := rfl

/-! ## present -/

@[simp] theorem State.present_mem (d : Display) : (s.present d).mem = s.mem := rfl
@[simp] theorem State.present_display (d : Display) : (s.present d).display = d := rfl
@[simp] theorem State.present_v (d : Display) : (s.present d).v = s.v := rfl
@[simp] theorem State.present_flags (d : Display) : (s.present d).flags = s.flags := rfl
@[simp] theorem State.present_i (d : Display) : (s.present d).i = s.i := rfl
@[simp] theorem State.present_pc (d : Display) : (s.present d).pc = s.pc := rfl
@[simp] theorem State.present_stack (d : Display) : (s.present d).stack = s.stack := rfl
@[simp] theorem State.present_sp (d : Display) : (s.present d).sp = s.sp := rfl
@[simp] theorem State.present_dt (d : Display) : (s.present d).dt = s.dt := rfl
@[simp] theorem State.present_st (d : Display) : (s.present d).st = s.st := rfl
@[simp] theorem State.present_planeMask (d : Display) : (s.present d).planeMask = s.planeMask := rfl
@[simp] theorem State.present_hires (d : Display) : (s.present d).hires = s.hires := rfl
@[simp] theorem State.present_redraw (d : Display) : (s.present d).redraw = true := rfl
@[simp] theorem State.present_halted (d : Display) : (s.present d).halted = s.halted := rfl
@[simp] theorem State.present_haltReason (d : Display) : (s.present d).haltReason = s.haltReason := rfl
@[simp] theorem State.present_waiting (d : Display) : (s.present d).waiting = s.waiting := rfl
@[simp] theorem State.present_params (d : Display) : (s.present d).params = s.params := rfl
@[simp] theorem State.present_keys (d : Display) : (s.present d).keys = s.keys := rfl
@[simp] theorem State.present_draws (d : Display) : (s.present d).draws = s.draws := rfl

/-! ## setResolution -/

@[simp] theorem State.setResolution_mem (b : Bool) : (s.setResolution b).mem = s.mem := rfl
@[simp] theorem State.setResolution_display (b : Bool) : (s.setResolution b).display = Display.dark := rfl
@[simp] theorem State.setResolution_v (b : Bool) : (s.setResolution b).v = s.v := rfl
@[simp] theorem State.setResolution_flags (b : Bool) : (s.setResolution b).flags = s.flags := rfl
@[simp] theorem State.setResolution_i (b : Bool) : (s.setResolution b).i = s.i := rfl
@[simp] theorem State.setResolution_pc (b : Bool) : (s.setResolution b).pc = s.pc := rfl
@[simp] theorem State.setResolution_stack (b : Bool) : (s.setResolution b).stack = s.stack := rfl
@[simp] theorem State.setResolution_sp (b : Bool) : (s.setResolution b).sp = s.sp := rfl
@[simp] theorem State.setResolution_dt (b : Bool) : (s.setResolution b).dt = s.dt := rfl
@[simp] theorem State.setResolution_st (b : Bool) : (s.setResolution b).st = s.st := rfl
@[simp] theorem State.setResolution_planeMask (b : Bool) : (s.setResolution b).planeMask = s.planeMask := rfl
@[simp] theorem State.setResolution_hires (b : Bool) : (s.setResolution b).hires = b := rfl
@[simp] theorem State.setResolution_redraw (b : Bool) : (s.setResolution b).redraw = true := rfl
@[simp] theorem State.setResolution_halted (b : Bool) : (s.setResolution b).halted = s.halted := rfl
@[simp] theorem State.setResolution_haltReason (b : Bool) : (s.setResolution b).haltReason = s.haltReason := rfl
@[simp] theorem State.setResolution_waiting (b : Bool) : (s.setResolution b).waiting = s.waiting := rfl
@[simp] theorem State.setResolution_params (b : Bool) : (s.setResolution b).params = s.params := rfl
@[simp] theorem State.setResolution_keys (b : Bool) : (s.setResolution b).keys = s.keys := rfl
@[simp] theorem State.setResolution_draws (b : Bool) : (s.setResolution b).draws = s.draws := rfl

/-! ## waitFor -/

@[simp] theorem State.waitFor_mem (r : Reg) : (s.waitFor r).mem = s.mem := rfl
@[simp] theorem State.waitFor_display (r : Reg) : (s.waitFor r).display = s.display := rfl
@[simp] theorem State.waitFor_v (r : Reg) : (s.waitFor r).v = s.v := rfl
@[simp] theorem State.waitFor_flags (r : Reg) : (s.waitFor r).flags = s.flags := rfl
@[simp] theorem State.waitFor_i (r : Reg) : (s.waitFor r).i = s.i := rfl
@[simp] theorem State.waitFor_pc (r : Reg) : (s.waitFor r).pc = s.pc := rfl
@[simp] theorem State.waitFor_stack (r : Reg) : (s.waitFor r).stack = s.stack := rfl
@[simp] theorem State.waitFor_sp (r : Reg) : (s.waitFor r).sp = s.sp := rfl
@[simp] theorem State.waitFor_dt (r : Reg) : (s.waitFor r).dt = s.dt := rfl
@[simp] theorem State.waitFor_st (r : Reg) : (s.waitFor r).st = s.st := rfl
@[simp] theorem State.waitFor_planeMask (r : Reg) : (s.waitFor r).planeMask = s.planeMask := rfl
@[simp] theorem State.waitFor_hires (r : Reg) : (s.waitFor r).hires = s.hires := rfl
@[simp] theorem State.waitFor_redraw (r : Reg) : (s.waitFor r).redraw = s.redraw := rfl
@[simp] theorem State.waitFor_halted (r : Reg) : (s.waitFor r).halted = s.halted := rfl
@[simp] theorem State.waitFor_haltReason (r : Reg) : (s.waitFor r).haltReason = s.haltReason := rfl
@[simp] theorem State.waitFor_waiting (r : Reg) : (s.waitFor r).waiting = some r := rfl
@[simp] theorem State.waitFor_params (r : Reg) : (s.waitFor r).params = s.params := rfl
@[simp] theorem State.waitFor_keys (r : Reg) : (s.waitFor r).keys = s.keys := rfl
@[simp] theorem State.waitFor_draws (r : Reg) : (s.waitFor r).draws = s.draws := rfl

/-! ## setByte -/

@[simp] theorem State.setByte_mem (a : Nat) (b : Byte) : (s.setByte a b).mem = Memory.write s.params a b s.mem := rfl
@[simp] theorem State.setByte_display (a : Nat) (b : Byte) : (s.setByte a b).display = s.display := rfl
@[simp] theorem State.setByte_v (a : Nat) (b : Byte) : (s.setByte a b).v = s.v := rfl
@[simp] theorem State.setByte_flags (a : Nat) (b : Byte) : (s.setByte a b).flags = s.flags := rfl
@[simp] theorem State.setByte_i (a : Nat) (b : Byte) : (s.setByte a b).i = s.i := rfl
@[simp] theorem State.setByte_pc (a : Nat) (b : Byte) : (s.setByte a b).pc = s.pc := rfl
@[simp] theorem State.setByte_stack (a : Nat) (b : Byte) : (s.setByte a b).stack = s.stack := rfl
@[simp] theorem State.setByte_sp (a : Nat) (b : Byte) : (s.setByte a b).sp = s.sp := rfl
@[simp] theorem State.setByte_dt (a : Nat) (b : Byte) : (s.setByte a b).dt = s.dt := rfl
@[simp] theorem State.setByte_st (a : Nat) (b : Byte) : (s.setByte a b).st = s.st := rfl
@[simp] theorem State.setByte_planeMask (a : Nat) (b : Byte) : (s.setByte a b).planeMask = s.planeMask := rfl
@[simp] theorem State.setByte_hires (a : Nat) (b : Byte) : (s.setByte a b).hires = s.hires := rfl
@[simp] theorem State.setByte_redraw (a : Nat) (b : Byte) : (s.setByte a b).redraw = s.redraw := rfl
@[simp] theorem State.setByte_halted (a : Nat) (b : Byte) : (s.setByte a b).halted = s.halted := rfl
@[simp] theorem State.setByte_haltReason (a : Nat) (b : Byte) : (s.setByte a b).haltReason = s.haltReason := rfl
@[simp] theorem State.setByte_waiting (a : Nat) (b : Byte) : (s.setByte a b).waiting = s.waiting := rfl
@[simp] theorem State.setByte_params (a : Nat) (b : Byte) : (s.setByte a b).params = s.params := rfl
@[simp] theorem State.setByte_keys (a : Nat) (b : Byte) : (s.setByte a b).keys = s.keys := rfl
@[simp] theorem State.setByte_draws (a : Nat) (b : Byte) : (s.setByte a b).draws = s.draws := rfl

/-! ## raise -/

@[simp] theorem State.raise_mem (k : FaultKind) (w : Word) : (s.raise k w).mem = s.mem := rfl
@[simp] theorem State.raise_display (k : FaultKind) (w : Word) : (s.raise k w).display = s.display := rfl
@[simp] theorem State.raise_v (k : FaultKind) (w : Word) : (s.raise k w).v = s.v := rfl
@[simp] theorem State.raise_flags (k : FaultKind) (w : Word) : (s.raise k w).flags = s.flags := rfl
@[simp] theorem State.raise_i (k : FaultKind) (w : Word) : (s.raise k w).i = s.i := rfl
@[simp] theorem State.raise_pc (k : FaultKind) (w : Word) : (s.raise k w).pc = s.pc := rfl
@[simp] theorem State.raise_stack (k : FaultKind) (w : Word) : (s.raise k w).stack = s.stack := rfl
@[simp] theorem State.raise_sp (k : FaultKind) (w : Word) : (s.raise k w).sp = s.sp := rfl
@[simp] theorem State.raise_dt (k : FaultKind) (w : Word) : (s.raise k w).dt = s.dt := rfl
@[simp] theorem State.raise_st (k : FaultKind) (w : Word) : (s.raise k w).st = s.st := rfl
@[simp] theorem State.raise_planeMask (k : FaultKind) (w : Word) : (s.raise k w).planeMask = s.planeMask := rfl
@[simp] theorem State.raise_hires (k : FaultKind) (w : Word) : (s.raise k w).hires = s.hires := rfl
@[simp] theorem State.raise_redraw (k : FaultKind) (w : Word) : (s.raise k w).redraw = s.redraw := rfl
@[simp] theorem State.raise_halted (k : FaultKind) (w : Word) : (s.raise k w).halted = true := rfl
@[simp] theorem State.raise_haltReason (k : FaultKind) (w : Word) : (s.raise k w).haltReason = some (.fault k w) := rfl
@[simp] theorem State.raise_waiting (k : FaultKind) (w : Word) : (s.raise k w).waiting = s.waiting := rfl
@[simp] theorem State.raise_params (k : FaultKind) (w : Word) : (s.raise k w).params = s.params := rfl
@[simp] theorem State.raise_keys (k : FaultKind) (w : Word) : (s.raise k w).keys = s.keys := rfl
@[simp] theorem State.raise_draws (k : FaultKind) (w : Word) : (s.raise k w).draws = s.draws := rfl

/-! ## halt -/

@[simp] theorem State.halt_mem : (s.halt).mem = s.mem := rfl
@[simp] theorem State.halt_display : (s.halt).display = s.display := rfl
@[simp] theorem State.halt_v : (s.halt).v = s.v := rfl
@[simp] theorem State.halt_flags : (s.halt).flags = s.flags := rfl
@[simp] theorem State.halt_i : (s.halt).i = s.i := rfl
@[simp] theorem State.halt_pc : (s.halt).pc = s.pc := rfl
@[simp] theorem State.halt_stack : (s.halt).stack = s.stack := rfl
@[simp] theorem State.halt_sp : (s.halt).sp = s.sp := rfl
@[simp] theorem State.halt_dt : (s.halt).dt = s.dt := rfl
@[simp] theorem State.halt_st : (s.halt).st = s.st := rfl
@[simp] theorem State.halt_planeMask : (s.halt).planeMask = s.planeMask := rfl
@[simp] theorem State.halt_hires : (s.halt).hires = s.hires := rfl
@[simp] theorem State.halt_redraw : (s.halt).redraw = s.redraw := rfl
@[simp] theorem State.halt_halted : (s.halt).halted = true := rfl
@[simp] theorem State.halt_haltReason : (s.halt).haltReason = some .exit := rfl
@[simp] theorem State.halt_waiting : (s.halt).waiting = s.waiting := rfl
@[simp] theorem State.halt_params : (s.halt).params = s.params := rfl
@[simp] theorem State.halt_keys : (s.halt).keys = s.keys := rfl
@[simp] theorem State.halt_draws : (s.halt).draws = s.draws := rfl

/-! ## withKeys -/

@[simp] theorem State.withKeys_mem (ks : Vector Bool 16) : (s.withKeys ks).mem = s.mem := rfl
@[simp] theorem State.withKeys_display (ks : Vector Bool 16) : (s.withKeys ks).display = s.display := rfl
@[simp] theorem State.withKeys_v (ks : Vector Bool 16) : (s.withKeys ks).v = s.v := rfl
@[simp] theorem State.withKeys_flags (ks : Vector Bool 16) : (s.withKeys ks).flags = s.flags := rfl
@[simp] theorem State.withKeys_i (ks : Vector Bool 16) : (s.withKeys ks).i = s.i := rfl
@[simp] theorem State.withKeys_pc (ks : Vector Bool 16) : (s.withKeys ks).pc = s.pc := rfl
@[simp] theorem State.withKeys_stack (ks : Vector Bool 16) : (s.withKeys ks).stack = s.stack := rfl
@[simp] theorem State.withKeys_sp (ks : Vector Bool 16) : (s.withKeys ks).sp = s.sp := rfl
@[simp] theorem State.withKeys_dt (ks : Vector Bool 16) : (s.withKeys ks).dt = s.dt := rfl
@[simp] theorem State.withKeys_st (ks : Vector Bool 16) : (s.withKeys ks).st = s.st := rfl
@[simp] theorem State.withKeys_planeMask (ks : Vector Bool 16) : (s.withKeys ks).planeMask = s.planeMask := rfl
@[simp] theorem State.withKeys_hires (ks : Vector Bool 16) : (s.withKeys ks).hires = s.hires := rfl
@[simp] theorem State.withKeys_redraw (ks : Vector Bool 16) : (s.withKeys ks).redraw = s.redraw := rfl
@[simp] theorem State.withKeys_halted (ks : Vector Bool 16) : (s.withKeys ks).halted = s.halted := rfl
@[simp] theorem State.withKeys_haltReason (ks : Vector Bool 16) : (s.withKeys ks).haltReason = s.haltReason := rfl
@[simp] theorem State.withKeys_waiting (ks : Vector Bool 16) : (s.withKeys ks).waiting = s.waiting := rfl
@[simp] theorem State.withKeys_params (ks : Vector Bool 16) : (s.withKeys ks).params = s.params := rfl
@[simp] theorem State.withKeys_keys (ks : Vector Bool 16) : (s.withKeys ks).keys = ks := rfl
@[simp] theorem State.withKeys_draws (ks : Vector Bool 16) : (s.withKeys ks).draws = s.draws := rfl

/-! ## tick -/

@[simp] theorem State.tick_mem : (s.tick).mem = s.mem := rfl
@[simp] theorem State.tick_display : (s.tick).display = s.display := rfl
@[simp] theorem State.tick_v : (s.tick).v = s.v := rfl
@[simp] theorem State.tick_flags : (s.tick).flags = s.flags := rfl
@[simp] theorem State.tick_i : (s.tick).i = s.i := rfl
@[simp] theorem State.tick_pc : (s.tick).pc = s.pc := rfl
@[simp] theorem State.tick_stack : (s.tick).stack = s.stack := rfl
@[simp] theorem State.tick_sp : (s.tick).sp = s.sp := rfl
@[simp] theorem State.tick_dt : (s.tick).dt = countDown s.dt := rfl
@[simp] theorem State.tick_st : (s.tick).st = countDown s.st := rfl
@[simp] theorem State.tick_planeMask : (s.tick).planeMask = s.planeMask := rfl
@[simp] theorem State.tick_hires : (s.tick).hires = s.hires := rfl
@[simp] theorem State.tick_redraw : (s.tick).redraw = s.redraw := rfl
@[simp] theorem State.tick_halted : (s.tick).halted = s.halted := rfl
@[simp] theorem State.tick_haltReason : (s.tick).haltReason = s.haltReason := rfl
@[simp] theorem State.tick_waiting : (s.tick).waiting = s.waiting := rfl
@[simp] theorem State.tick_params : (s.tick).params = s.params := rfl
@[simp] theorem State.tick_keys : (s.tick).keys = s.keys := rfl
@[simp] theorem State.tick_draws : (s.tick).draws = s.draws := rfl

/-! ## ackFrame -/

@[simp] theorem State.ackFrame_mem : (s.ackFrame).mem = s.mem := rfl
@[simp] theorem State.ackFrame_display : (s.ackFrame).display = s.display := rfl
@[simp] theorem State.ackFrame_v : (s.ackFrame).v = s.v := rfl
@[simp] theorem State.ackFrame_flags : (s.ackFrame).flags = s.flags := rfl
@[simp] theorem State.ackFrame_i : (s.ackFrame).i = s.i := rfl
@[simp] theorem State.ackFrame_pc : (s.ackFrame).pc = s.pc := rfl
@[simp] theorem State.ackFrame_stack : (s.ackFrame).stack = s.stack := rfl
@[simp] theorem State.ackFrame_sp : (s.ackFrame).sp = s.sp := rfl
@[simp] theorem State.ackFrame_dt : (s.ackFrame).dt = s.dt := rfl
@[simp] theorem State.ackFrame_st : (s.ackFrame).st = s.st := rfl
@[simp] theorem State.ackFrame_planeMask : (s.ackFrame).planeMask = s.planeMask := rfl
@[simp] theorem State.ackFrame_hires : (s.ackFrame).hires = s.hires := rfl
@[simp] theorem State.ackFrame_redraw : (s.ackFrame).redraw = false := rfl
@[simp] theorem State.ackFrame_halted : (s.ackFrame).halted = s.halted := rfl
@[simp] theorem State.ackFrame_haltReason : (s.ackFrame).haltReason = s.haltReason := rfl
@[simp] theorem State.ackFrame_waiting : (s.ackFrame).waiting = s.waiting := rfl
@[simp] theorem State.ackFrame_params : (s.ackFrame).params = s.params := rfl
@[simp] theorem State.ackFrame_keys : (s.ackFrame).keys = s.keys := rfl
@[simp] theorem State.ackFrame_draws : (s.ackFrame).draws = s.draws := rfl

/-! ## The state after a random draw -/

@[simp] theorem State.drawByte_mem : s.drawByte.2.mem = s.mem := rfl
@[simp] theorem State.drawByte_display : s.drawByte.2.display = s.display := rfl
@[simp] theorem State.drawByte_v : s.drawByte.2.v = s.v := rfl
@[simp] theorem State.drawByte_flags : s.drawByte.2.flags = s.flags := rfl
@[simp] theorem State.drawByte_i : s.drawByte.2.i = s.i := rfl
@[simp] theorem State.drawByte_pc : s.drawByte.2.pc = s.pc := rfl
@[simp] theorem State.drawByte_stack : s.drawByte.2.stack = s.stack := rfl
@[simp] theorem State.drawByte_sp : s.drawByte.2.sp = s.sp := rfl
@[simp] theorem State.drawByte_dt : s.drawByte.2.dt = s.dt := rfl
@[simp] theorem State.drawByte_st : s.drawByte.2.st = s.st := rfl
@[simp] theorem State.drawByte_planeMask : s.drawByte.2.planeMask = s.planeMask := rfl
@[simp] theorem State.drawByte_hires : s.drawByte.2.hires = s.hires := rfl
@[simp] theorem State.drawByte_redraw : s.drawByte.2.redraw = s.redraw := rfl
@[simp] theorem State.drawByte_halted : s.drawByte.2.halted = s.halted := rfl
@[simp] theorem State.drawByte_haltReason : s.drawByte.2.haltReason = s.haltReason := rfl
@[simp] theorem State.drawByte_waiting : s.drawByte.2.waiting = s.waiting := rfl
@[simp] theorem State.drawByte_params : s.drawByte.2.params = s.params := rfl
@[simp] theorem State.drawByte_keys : s.drawByte.2.keys = s.keys := rfl
@[simp] theorem State.drawByte_draws : s.drawByte.2.draws = s.draws + 1 := rfl

@[simp] theorem State.drawByte_fst : s.drawByte.1 = Config.randomByte s.draws := rfl

end Sys2Proof.Machine
end

