-- ==== Sys2Proof/Laws/Memory.lean ====
section
/-! SUPPORT. The laws of memory: a read after a write, and the canonical form kept by every write. -/

namespace Sys2Proof.Machine

theorem Memory.read_erase (p : Params) (a c : Nat) (m : Memory) :
    Memory.read p (Memory.erase a m) c = if c = a then resetByte p c else Memory.read p m c := by
  induction m with
  | nil => simp [Memory.erase, Memory.read]
  | cons e m ih =>
    obtain ⟨k, u⟩ := e
    simp only [Memory.erase, List.filter_cons, Memory.read] at ih ⊢
    by_cases hk : k = a
    · subst hk
      rcases eq_or_ne c k with rfl | hc
      · simpa using ih
      · simpa [hc, hc.symm] using ih
    · rcases eq_or_ne k c with rfl | hkc
      · simp [hk, Memory.read]
      · simpa [hk, Memory.read, hkc] using ih

theorem Memory.read_insert (p : Params) (a c : Nat) (v : Byte) (m : Memory) (h : ∀ e ∈ m, e.1 ≠ a) :
    Memory.read p (Memory.insert a v m) c = if c = a then v else Memory.read p m c := by
  induction m with
  | nil => simp [Memory.insert, Memory.read, eq_comm]
  | cons e m ih =>
    obtain ⟨k, u⟩ := e
    have hk : k ≠ a := h (k, u) (by simp)
    have ih' := ih fun e he => h e (by simp [he])
    unfold Memory.insert
    split
    · simp [Memory.read, eq_comm]
    · rcases eq_or_ne k c with rfl | hkc
      · simp [Memory.read, hk]
      · simp [Memory.read, hkc, ih']

theorem Memory.erase_ne (a : Nat) (m : Memory) : ∀ e ∈ Memory.erase a m, e.1 ≠ a := by
  intro e he
  simpa [Memory.erase] using (List.mem_filter.mp he).2

/-- A read after a write gives the byte written, and every other address reads as before (R48). -/
theorem Memory.read_write (p : Params) (a c : Nat) (v : Byte) (m : Memory) :
    Memory.read p (Memory.write p a v m) c = if c = a then v else Memory.read p m c := by
  unfold Memory.write
  split
  · rename_i hv
    rw [Memory.read_erase]
    split
    · rename_i h; subst h; exact hv.symm
    · rfl
  · rw [Memory.read_insert p a c v _ (Memory.erase_ne a m)]
    split
    · rfl
    · rename_i h; rw [Memory.read_erase]; simp [h]

theorem Memory.wf_iff (p : Params) (m : Memory) :
    Memory.wf p m = true ↔ m.Pairwise (fun c d => c.1 < d.1) ∧ ∀ e ∈ m, e.1 ≤ maxAddr ∧ e.2 ≠ resetByte p e.1 := by
  simp [Memory.wf, List.all_eq_true]

theorem Memory.wf_nil (p : Params) : Memory.wf p [] = true := rfl

theorem Memory.wf_erase (p : Params) (a : Nat) (m : Memory) (h : Memory.wf p m = true) :
    Memory.wf p (Memory.erase a m) = true := by
  rw [Memory.wf_iff] at h ⊢
  exact ⟨h.1.filter _, fun e he => h.2 e (List.mem_filter.mp he).1⟩

theorem Memory.mem_insert (a : Nat) (v : Byte) (m : Memory) (e : Host.Cell) :
    e ∈ Memory.insert a v m ↔ e = (a, v) ∨ e ∈ m := by
  induction m with
  | nil => simp [Memory.insert]
  | cons x m ih =>
    obtain ⟨k, u⟩ := x
    unfold Memory.insert
    split
    · simp
    · simp [ih, or_left_comm]

theorem Memory.pairwise_insert (a : Nat) (v : Byte) (m : Memory) (h : m.Pairwise fun c d => c.1 < d.1)
    (hne : ∀ e ∈ m, e.1 ≠ a) : (Memory.insert a v m).Pairwise fun c d => c.1 < d.1 := by
  induction m with
  | nil => simp [Memory.insert]
  | cons x m ih =>
    obtain ⟨k, u⟩ := x
    rw [List.pairwise_cons] at h
    unfold Memory.insert
    split
    · rename_i hak
      refine List.pairwise_cons.mpr ⟨?_, List.pairwise_cons.mpr h⟩
      intro e he
      rcases List.mem_cons.mp he with rfl | he
      · exact hak
      · exact lt_trans hak (h.1 e he)
    · rename_i hak
      refine List.pairwise_cons.mpr ⟨?_, ih h.2 fun e he => hne e (by simp [he])⟩
      intro e he
      rcases (Memory.mem_insert a v m e).mp he with rfl | he
      · have := hne (k, u) (by simp); simp at this ⊢; omega
      · exact h.1 e he

/-- A write inside the address space keeps the canonical form. -/
theorem Memory.wf_write (p : Params) (a : Nat) (v : Byte) (m : Memory) (ha : a ≤ maxAddr)
    (h : Memory.wf p m = true) : Memory.wf p (Memory.write p a v m) = true := by
  have he := Memory.wf_erase p a m h
  unfold Memory.write
  split
  · exact he
  · rename_i hv
    rw [Memory.wf_iff] at he ⊢
    refine ⟨Memory.pairwise_insert a v _ he.1 (Memory.erase_ne a m), fun e hm => ?_⟩
    rcases (Memory.mem_insert a v _ e).mp hm with rfl | hm
    · exact ⟨ha, hv⟩
    · exact he.2 e hm

end Sys2Proof.Machine
end

