-- ==== Sys2Proof/Laws/Ops.lean ====
section
/-! SUPPORT. One lemma per shared operation, saying all it can do. The provers cite these instead of unfolding. -/

namespace Sys2Proof.Machine

variable (s t : State)

/-! ## Registers and the flag bank -/

/-- A register after a register write (R8). -/
theorem State.getV_setV (x r : Reg) (b : Byte) : (s.setV x b).getV r = if r = x then b else s.getV r := by
  unfold State.getV State.setV
  simp only [Vector.get_eq_getElem, Vector.getElem_set]
  by_cases h : r = x
  · subst h; simp
  · have : ¬ x.toNat = r.toNat := fun e => h (BitVec.eq_of_toNat_eq e.symm)
    simp [h, this]

/-- A flag-bank register after a flag-bank write (R25). -/
theorem State.getFlag_setFlag (x r : Reg) (b : Byte) :
    (s.setFlag x b).getFlag r = if r = x then b else s.getFlag r := by
  unfold State.getFlag State.setFlag
  simp only [Vector.get_eq_getElem, Vector.getElem_set]
  by_cases h : r = x
  · subst h; simp
  · have : ¬ x.toNat = r.toNat := fun e => h (BitVec.eq_of_toNat_eq e.symm)
    simp [h, this]

/-- Registers read from `v` alone. -/
theorem State.getV_congr (h : t.v = s.v) (r : Reg) : t.getV r = s.getV r := by simp [State.getV, h]

/-- Flag-bank registers read from `flags` alone. -/
theorem State.getFlag_congr (h : t.flags = s.flags) (r : Reg) : t.getFlag r = s.getFlag r := by
  simp [State.getFlag, h]

/-- VF and a register written in that order (R98). -/
theorem State.getV_setVFThen (f : Bool) (x r : Reg) (b : Byte) :
    (s.setVFThen f x b).getV r = if r = x then b else if r = VF then flagByte f else s.getV r := by
  rw [State.setVFThen, State.getV_setV, State.getV_setV]

theorem State.setVFThen_only (f : Bool) (x : Reg) (b : Byte) :
    s.setVFThen f x b = { s with v := (s.setVFThen f x b).v } := rfl

/-! ## Memory -/

@[simp] theorem State.addrI_zero : s.addrI 0 = s.i.toNat := rfl

/-- A byte after a byte write (R47, R48). -/
theorem State.byteAt_setByte (a c : Nat) (b : Byte) :
    (s.setByte a b).byteAt c = if c = a then b else s.byteAt c := Memory.read_write _ _ _ _ _

/-- Bytes read from `mem` and `params` alone. -/
theorem State.byteAt_congr (hm : t.mem = s.mem) (hp : t.params = s.params) (a : Nat) : t.byteAt a = s.byteAt a := by
  simp [State.byteAt, hm, hp]

/-- Writing bytes changes memory alone. -/
theorem State.setBytes_only (a : Nat) (bs : List Byte) : s.setBytes a bs = { s with mem := (s.setBytes a bs).mem } := by
  induction bs generalizing s a with
  | nil => rfl
  | cons b bs ih => rw [State.setBytes, ih]; rfl

/-- A byte after a range of bytes is written: the k-th byte at `a + k`, all others as before (R49). -/
theorem State.byteAt_setBytes (a c : Nat) (bs : List Byte) :
    (s.setBytes a bs).byteAt c = if a ≤ c then bs.getD (c - a) (s.byteAt c) else s.byteAt c := by
  induction bs generalizing s a with
  | nil => simp [State.setBytes]
  | cons b bs ih =>
    rw [State.setBytes, ih, State.byteAt_setByte]
    rcases lt_trichotomy c a with h | rfl | h
    · rw [if_neg (by omega), if_neg (by omega), if_neg (by omega)]
    · simp
    · obtain ⟨d, hd⟩ : ∃ d, c - a = d + 1 := ⟨c - a - 1, by omega⟩
      have hd' : c - (a + 1) = d := by omega
      rw [if_pos (by omega), if_neg (by omega), if_pos (by omega), hd, hd', List.getD_cons_succ]

/-- A range of bytes inside the address space keeps the canonical form. -/
theorem State.wf_setBytes (a : Nat) (bs : List Byte) (h : a + bs.length ≤ maxAddr + 1)
    (hw : Memory.wf s.params s.mem = true) : Memory.wf s.params (s.setBytes a bs).mem = true := by
  induction bs generalizing s a with
  | nil => exact hw
  | cons b bs ih =>
    simp only [List.length_cons] at h
    exact ih (s.setByte a b) (a + 1) (by omega) (Memory.wf_write _ _ _ _ (by omega) hw)

@[simp] theorem State.length_bytesFrom (a n : Nat) : (s.bytesFrom a n).length = n := by
  induction n generalizing a with
  | zero => rfl
  | succ n ih => simp [State.bytesFrom, ih]

/-- The k-th of a range of bytes read (R49). -/
theorem State.getElem?_bytesFrom (a n k : Nat) (h : k < n) : (s.bytesFrom a n)[k]? = some (s.byteAt (a + k)) := by
  induction n generalizing a k with
  | zero => omega
  | succ n ih =>
    cases k with
    | zero => simp [State.bytesFrom]
    | succ k => simp [State.bytesFrom, ih (a + 1) k (by omega), Nat.add_comm, Nat.add_left_comm]

/-! ## Register ranges -/

theorem State.setRegs_only (k : Nat) (bs : List Byte) : s.setRegs k bs = { s with v := (s.setRegs k bs).v } := by
  induction bs generalizing s k with
  | nil => rfl
  | cons b bs ih => rw [State.setRegs, ih]; rfl

theorem ofNat_eq_reg {k : Nat} (h : k < 16) (r : Reg) : r = BitVec.ofNat 4 k ↔ r.toNat = k := by
  constructor
  · rintro rfl; simp; omega
  · intro e; apply BitVec.eq_of_toNat_eq; simp [e]; omega

/-- A register after a range of registers is written: the j-th byte in register `k + j`, all others as before. -/
theorem State.getV_setRegs (k : Nat) (bs : List Byte) (h : k + bs.length ≤ 16) (r : Reg) :
    (s.setRegs k bs).getV r = if k ≤ r.toNat then bs.getD (r.toNat - k) (s.getV r) else s.getV r := by
  induction bs generalizing s k with
  | nil => simp [State.setRegs]
  | cons b bs ih =>
    simp only [List.length_cons] at h
    rw [State.setRegs, ih _ _ (by omega), State.getV_setV]
    have hk := ofNat_eq_reg (k := k) (by omega) r
    rcases lt_trichotomy r.toNat k with h' | h' | h'
    · have : ¬ r = BitVec.ofNat 4 k := by rw [hk]; omega
      rw [if_neg (by omega), if_neg this, if_neg (by omega)]
    · have : r = BitVec.ofNat 4 k := hk.mpr h'
      rw [if_neg (by omega), if_pos this, if_pos (by omega)]
      simp [h']
    · have : ¬ r = BitVec.ofNat 4 k := by rw [hk]; omega
      obtain ⟨d, hd⟩ : ∃ d, r.toNat - k = d + 1 := ⟨r.toNat - k - 1, by omega⟩
      have hd' : r.toNat - (k + 1) = d := by omega
      rw [if_pos (by omega), if_neg this, if_pos (by omega), hd, hd', List.getD_cons_succ]

@[simp] theorem State.length_regsFrom (k n : Nat) : (s.regsFrom k n).length = n := by
  induction n generalizing k with
  | zero => rfl
  | succ n ih => simp [State.regsFrom, ih]

/-- The j-th of a range of registers read. -/
theorem State.getElem?_regsFrom (k n j : Nat) (h : j < n) :
    (s.regsFrom k n)[j]? = some (s.getV (BitVec.ofNat 4 (k + j))) := by
  induction n generalizing k j with
  | zero => omega
  | succ n ih =>
    cases j with
    | zero => simp [State.regsFrom]
    | succ j =>
      have e : k + 1 + j = k + (j + 1) := by omega
      rw [State.regsFrom, List.getElem?_cons_succ, ih (k + 1) j (by omega), e]

theorem State.setFlags_only (k : Nat) (bs : List Byte) : s.setFlags k bs = { s with flags := (s.setFlags k bs).flags } := by
  induction bs generalizing s k with
  | nil => rfl
  | cons b bs ih => rw [State.setFlags, ih]; rfl

/-- A flag-bank register after a range of them is written. -/
theorem State.getFlag_setFlags (k : Nat) (bs : List Byte) (h : k + bs.length ≤ 16) (r : Reg) :
    (s.setFlags k bs).getFlag r = if k ≤ r.toNat then bs.getD (r.toNat - k) (s.getFlag r) else s.getFlag r := by
  induction bs generalizing s k with
  | nil => simp [State.setFlags]
  | cons b bs ih =>
    simp only [List.length_cons] at h
    rw [State.setFlags, ih _ _ (by omega), State.getFlag_setFlag]
    have hk := ofNat_eq_reg (k := k) (by omega) r
    rcases lt_trichotomy r.toNat k with h' | h' | h'
    · have : ¬ r = BitVec.ofNat 4 k := by rw [hk]; omega
      rw [if_neg (by omega), if_neg this, if_neg (by omega)]
    · have : r = BitVec.ofNat 4 k := hk.mpr h'
      rw [if_neg (by omega), if_pos this, if_pos (by omega)]
      simp [h']
    · have : ¬ r = BitVec.ofNat 4 k := by rw [hk]; omega
      obtain ⟨d, hd⟩ : ∃ d, r.toNat - k = d + 1 := ⟨r.toNat - k - 1, by omega⟩
      have hd' : r.toNat - (k + 1) = d := by omega
      rw [if_pos (by omega), if_neg this, if_pos (by omega), hd, hd', List.getD_cons_succ]

@[simp] theorem State.length_flagsFrom (k n : Nat) : (s.flagsFrom k n).length = n := by
  induction n generalizing k with
  | zero => rfl
  | succ n ih => simp [State.flagsFrom, ih]

/-- The j-th of a range of flag-bank registers read. -/
theorem State.getElem?_flagsFrom (k n j : Nat) (h : j < n) :
    (s.flagsFrom k n)[j]? = some (s.getFlag (BitVec.ofNat 4 (k + j))) := by
  induction n generalizing k j with
  | zero => omega
  | succ n ih =>
    cases j with
    | zero => simp [State.flagsFrom]
    | succ j =>
      have e : k + 1 + j = k + (j + 1) := by omega
      rw [State.flagsFrom, List.getElem?_cons_succ, ih (k + 1) j (by omega), e]

/-- The range two selectors name lies inside the file, whichever way round (R141). -/
theorem range_fits (x y : Reg) : rangeLo x y + rangeSpan x y < 16 := by
  have hx := x.isLt; have hy := y.isLt
  simp only [rangeLo, rangeSpan]; omega

theorem rangeLo_comm (x y : Reg) : rangeLo x y = rangeLo y x := Nat.min_comm _ _

theorem rangeSpan_comm (x y : Reg) : rangeSpan x y = rangeSpan y x := by
  simp [rangeSpan, Nat.min_comm, Nat.max_comm]

/-! ## Checks, faults and the program counter -/

/-- All a bounds check can do: go on, or take the fault (R47, R152). -/
theorem State.checkBound_cases (k : AccessKind) (a : Nat) (rest : Result) :
    (a ≤ maxAddr ∧ s.checkBound k a rest = rest) ∨
    (maxAddr < a ∧ s.checkBound k a rest = .next (s.raise (.outOfBounds k a) s.fetchedFrom)) := by
  unfold State.checkBound
  split
  · exact .inl ⟨‹_›, rfl⟩
  · exact .inr ⟨by omega, rfl⟩

/-- All the advance of `pc` can do (R19). -/
theorem State.advance_cases (n : Nat) :
    (s.pc.toNat + n ≤ maxAddr ∧ s.advance n = .next (s.setPc (BitVec.ofNat 16 (s.pc.toNat + n)))) ∨
    (maxAddr < s.pc.toNat + n ∧
      s.advance n = .next (s.raise (.outOfBounds .pc (s.pc.toNat + n)) s.fetchedFrom)) :=
  s.checkBound_cases _ _ _

/-- All `SkipNext` can do: skip the next instruction's length, or take one of its two faults (R88). -/
theorem State.skipNext_cases :
    (maxAddr < s.pc.toNat + 1 ∧
      s.skipNext = .next (s.raise (.outOfBounds .fetch (s.pc.toNat + 1)) s.fetchedFrom)) ∨
    (s.pc.toNat + 1 ≤ maxAddr ∧ s.skipNext = s.advance (instrLength (s.fetch16 s.pc.toNat))) := by
  rcases s.checkBound_cases .fetch (s.pc.toNat + 1) (s.advance (instrLength (s.fetch16 s.pc.toNat))) with h | h
  · exact .inr h
  · exact .inl h

/-- All a conditional skip can do: stay, advance `pc`, or take a fault (R88). -/
theorem State.skipIf_cases (c : Bool) :
    (c = false ∧ s.skipIf c = .next s) ∨
    (c = true ∧ ∃ w, s.skipIf c = .next (s.setPc w)) ∨
    (c = true ∧ ∃ k a, maxAddr < a ∧ s.skipIf c = .next (s.raise (.outOfBounds k a) s.fetchedFrom)) := by
  cases c
  · exact .inl ⟨rfl, rfl⟩
  · refine .inr ?_
    simp only [State.skipIf, if_true, true_and]
    rcases s.skipNext_cases with ⟨h, e⟩ | ⟨-, e⟩
    · exact .inr ⟨_, _, h, e⟩
    · rw [e]
      rcases s.advance_cases (instrLength (s.fetch16 s.pc.toNat)) with ⟨-, e⟩ | ⟨h, e⟩
      · exact .inl ⟨_, e⟩
      · exact .inr ⟨_, _, h, e⟩

/-- All a key skip can do (R127). -/
theorem State.skipTwoIf_cases (c : Bool) :
    (c = false ∧ s.skipTwoIf c = .next s) ∨
    (c = true ∧ ∃ w, s.skipTwoIf c = .next (s.setPc w)) ∨
    (c = true ∧ ∃ k a, maxAddr < a ∧ s.skipTwoIf c = .next (s.raise (.outOfBounds k a) s.fetchedFrom)) := by
  cases c
  · exact .inl ⟨rfl, rfl⟩
  · refine .inr ?_
    simp only [State.skipTwoIf, if_true, true_and]
    rcases s.advance_cases 2 with ⟨-, e⟩ | ⟨h, e⟩
    · exact .inl ⟨_, e⟩
    · exact .inr ⟨_, _, h, e⟩

/-! ## The stack -/

/-- All a push can do (R89). -/
theorem State.push_cases (w : Word) :
    (s.sp < s.stack.length ∧ s.push w = some { s with stack := s.stack.set s.sp w, sp := s.sp + 1 }) ∨
    (s.stack.length ≤ s.sp ∧ s.push w = none) := by
  unfold State.push
  split
  · exact .inl ⟨‹_›, rfl⟩
  · exact .inr ⟨by omega, rfl⟩

/-- All a pop can do (R87). -/
theorem State.pop_cases :
    (∃ w, s.stack[s.sp - 1]? = some w ∧
      s.pop = some (w, { s with stack := s.stack.set (s.sp - 1) 0, sp := s.sp - 1 })) ∨
    (s.stack.length ≤ s.sp - 1 ∧ s.pop = none) := by
  unfold State.pop
  rcases h : s.stack[s.sp - 1]? with _ | w
  · exact .inr ⟨by simpa using h, rfl⟩
  · exact .inl ⟨w, rfl, rfl⟩

/-! ## Keys -/

/-- The first pressed key in ascending order (R81). -/
theorem State.firstKey_cases :
    (s.firstKey = none ∧ ∀ k, s.pressed k = false) ∨
    (∃ k, s.firstKey = some k ∧ s.pressed k = true ∧ ∀ j, j.toNat < k.toNat → s.pressed j = false) := by
  have hl : ((List.range 16).map fun k => BitVec.ofNat 4 k) =
      [0, 1, 2, 3, 4, 5, 6, 7, 8, 9, 10, 11, 12, 13, 14, 15] := by decide
  have hall : ∀ k : Nibble, k ∈ ((List.range 16).map fun k => BitVec.ofNat 4 k) := by rw [hl]; decide
  have hsorted : ((List.range 16).map fun k => BitVec.ofNat 4 k).Pairwise
      (fun a b : Nibble => a.toNat < b.toNat) := by rw [hl]; decide
  unfold State.firstKey
  generalize ((List.range 16).map fun k => BitVec.ofNat 4 k) = l at hall hsorted
  rcases h : l.find? (fun k => s.pressed k) with _ | k
  · refine .inl ⟨rfl, fun k => ?_⟩
    simpa using List.find?_eq_none.mp h k (hall k)
  · refine .inr ⟨k, rfl, ?_⟩
    obtain ⟨hp, as, bs, rfl, has⟩ := List.find?_eq_some_iff_append.mp h
    refine ⟨by simpa using hp, fun j hj => ?_⟩
    have hjm := hall j
    rcases List.mem_append.mp hjm with hm | hm
    · simpa using has j hm
    · rw [List.pairwise_append] at hsorted
      rcases List.mem_cons.mp hm with rfl | hm
      · omega
      · have := (List.pairwise_cons.mp hsorted.2.1).1 j hm
        omega

end Sys2Proof.Machine
end

