-- ==== Sys2Proof/Laws/Display.lean ====
section
/-! SUPPORT. The laws of the compositor: what each pixel is after Clear, Shift, Toggle and a sequence of toggles. -/

namespace Sys2Proof.Machine

variable (d : Display)

/-! ## Planes -/

@[simp] theorem mem_planes (m : BitVec 2) (p : PlaneId) :
    p ∈ planes m ↔ m.getLsbD (match p with | .one => 0 | .two => 1) = true := by
  cases p <;> simp [planes]

theorem nodup_planes (m : BitVec 2) : (planes m).Nodup := by
  revert m; decide

theorem Display.plane_setPlane (p q : PlaneId) (b : PlaneBits) :
    (d.setPlane p b).plane q = if q = p then b else d.plane q := by
  cases p <;> cases q <;> rfl

/-- One plane after an operation on the selected planes: the operation's when selected, its own otherwise (R113). -/
theorem Display.plane_onPlanes (ps : List PlaneId) (f : PlaneBits → PlaneBits) (hn : ps.Nodup) (p : PlaneId) :
    (d.onPlanes ps f).plane p = if p ∈ ps then f (d.plane p) else d.plane p := by
  induction ps generalizing d with
  | nil => simp [Display.onPlanes]
  | cons q ps ih =>
    rw [List.nodup_cons] at hn
    have := ih (d.setPlane q (f (d.plane q))) hn.2
    simp only [Display.onPlanes, List.foldl_cons] at this ⊢
    rw [this]
    rcases eq_or_ne p q with rfl | h
    · simp [hn.1, Display.plane_setPlane]
    · simp [h, Display.plane_setPlane]

/-! ## Rows -/

theorem rowOfPlane_ofFn (f : Fin 64 → BitVec 128) (y : Nat) :
    rowOfPlane (Vector.ofFn f) y = if h : y < 64 then f ⟨y, h⟩ else 0 := by
  unfold rowOfPlane
  split
  · rename_i h; simp [h]
  · rename_i h; simp [h]

theorem rowOfPlane_lt (b : PlaneBits) (y : Fin 64) : rowOfPlane b y.val = b[y] := by
  simp [rowOfPlane]

theorem rowOfPlane_ge (b : PlaneBits) (y : Nat) (h : 64 ≤ y) : rowOfPlane b y = 0 := by
  simp [rowOfPlane, h]

theorem getLsbD_columns (w x : Nat) (hw : w ≤ 128) : (columns w).getLsbD x = decide (x < w) := by
  unfold columns
  rw [BitVec.getLsbD_ushiftRight, BitVec.getLsbD_allOnes]
  simp; omega

/-! ## Clear (R114) -/

/-- A pixel after `Clear`: dark when its plane is selected and it is on the W × H screen, as before otherwise. -/
theorem Display.pixel_clear (w h : Nat) (m : BitVec 2) (p : PlaneId) (x y : Nat) (hw : w ≤ 128) :
    (d.clear w h m).pixel p x y = (d.pixel p x y && !(decide (p ∈ planes m) && decide (x < w) && decide (y < h))) := by
  unfold Display.pixel Display.clear
  rw [Display.plane_onPlanes _ _ _ (nodup_planes m)]
  by_cases hp : p ∈ planes m
  · simp only [hp, if_true, clearPlane, rowOfPlane_ofFn]
    by_cases hy : y < 64
    · have e : (d.plane p)[(⟨y, hy⟩ : Fin 64)] = rowOfPlane (d.plane p) y := (rowOfPlane_lt _ ⟨y, hy⟩).symm
      simp only [hy, dif_pos, e]
      by_cases hh : y < h
      · by_cases hx : x < 128
        · simp only [hh, if_true, BitVec.getLsbD_and, BitVec.getLsbD_not, getLsbD_columns _ _ hw, hx, decide_true,
            Bool.true_and, Bool.and_true]
        · have : 128 ≤ x := by omega
          simp [BitVec.getLsbD_of_ge _ _ this]
      · simp [hh]
    · simp [hy, rowOfPlane_ge _ y (by omega)]
  · simp [hp]

/-! ## Shift (R116) -/

theorem getLsbD_shiftRow (dx : Int) (r : BitVec 128) (x : Nat) (hx : x < 128) :
    (shiftRow dx r).getLsbD x = (decide (0 ≤ (x : Int) - dx) && r.getLsbD ((x : Int) - dx).toNat) := by
  unfold shiftRow
  split
  · rename_i h
    obtain ⟨n, rfl⟩ := Int.eq_ofNat_of_zero_le h
    have e : ((x : Int) - (n : Int)).toNat = x - n := by omega
    simp only [Int.toNat_natCast, BitVec.getLsbD_shiftLeft, e, hx, decide_true, Bool.true_and]
    congr 1
    by_cases hn : x < n
    · simp [hn]
    · simp [hn]; omega
  · rename_i h
    have e : ((x : Int) - dx).toNat = (-dx).toNat + x := by omega
    have h0 : (0 : Int) ≤ (x : Int) - dx := by omega
    rw [BitVec.getLsbD_ushiftRight, e, decide_eq_true h0, Bool.true_and]

/-- A pixel after `Shift(dx, dy)`: on the screen in a selected plane, the old pixel at (x - dx, y - dy) if that is on
the screen and dark otherwise; as before anywhere else. -/
theorem Display.pixel_shift (w h : Nat) (m : BitVec 2) (dx dy : Int) (p : PlaneId) (x y : Nat) (hw : w ≤ 128)
    (hh : h ≤ 64) :
    (d.shift w h m dx dy).pixel p x y =
      if p ∈ planes m ∧ x < w ∧ y < h then
        (decide (0 ≤ (x : Int) - dx ∧ (x : Int) - dx < w ∧ 0 ≤ (y : Int) - dy ∧ (y : Int) - dy < h) &&
          d.pixel p ((x : Int) - dx).toNat ((y : Int) - dy).toNat)
      else d.pixel p x y := by
  unfold Display.pixel Display.shift
  rw [Display.plane_onPlanes _ _ _ (nodup_planes m)]
  by_cases hp : p ∈ planes m
  · simp only [hp, if_true, shiftPlane, rowOfPlane_ofFn, true_and]
    by_cases hy : y < 64
    · have e : (d.plane p)[(⟨y, hy⟩ : Fin 64)] = rowOfPlane (d.plane p) y := (rowOfPlane_lt _ ⟨y, hy⟩).symm
      simp only [hy, dif_pos, e]
      by_cases hyh : y < h
      · by_cases hx : x < 128
        · simp only [hyh, if_true, BitVec.getLsbD_or, BitVec.getLsbD_and, BitVec.getLsbD_not,
            getLsbD_columns _ _ hw, getLsbD_shiftRow _ _ _ hx, hx, decide_true, Bool.true_and, and_true]
          by_cases hxw : x < w
          · simp only [hxw, decide_true, Bool.not_true, Bool.and_false, Bool.false_or, Bool.and_true, if_true]
            unfold sourceRow
            split
            · rename_i hs
              simp only [BitVec.getLsbD_and, getLsbD_columns _ _ hw]
              by_cases h0 : 0 ≤ (x : Int) - dx
              · have e2 : ((((x : Int) - dx).toNat : Nat) < w) ↔ ((x : Int) - dx < w) := by omega
                simp only [hs, h0, e2, true_and, and_true, decide_true, Bool.true_and]
                exact Bool.and_comm _ _
              · simp only [h0, false_and, decide_false, Bool.false_and]
            · rename_i hs
              have hs' : ¬(0 ≤ (x : Int) - dx ∧ (x : Int) - dx < w ∧ 0 ≤ (y : Int) - dy ∧ (y : Int) - dy < h) :=
                fun c => hs ⟨c.2.2.1, c.2.2.2⟩
              simp only [decide_eq_false hs', Bool.false_and]
              simp
          · simp [hxw]
        · have : 128 ≤ x := by omega
          have hxw : ¬ x < w := by omega
          simp [BitVec.getLsbD_of_ge _ _ this, hxw]
      · simp [hyh]
    · have : ¬ y < h := by omega
      simp [hy, this, rowOfPlane_ge _ y (by omega)]
  · simp [hp]

/-! ## Toggle (R115) -/

theorem getLsbD_toggleBit (r : BitVec 128) (x c : Nat) (hx : x < 128) :
    (toggleBit r x).getLsbD c = (r.getLsbD c ^^ decide (c = x)) := by
  unfold toggleBit
  rw [BitVec.getLsbD_xor, BitVec.getLsbD_ofNat, Nat.testBit_two_pow]
  congr 1
  by_cases h : c = x
  · subst h; simp [hx]
  · simp [h, Ne.symm h]

/-- A pixel after a toggle at a position on the screen. -/
theorem Display.pixel_togglePlane (p q : PlaneId) (x y cx cy : Nat) (hx : cx < 128) (hy : cy < 64) :
    (d.setPlane q (togglePlane (d.plane q) cx cy)).pixel p x y =
      (d.pixel p x y ^^ decide (p = q ∧ x = cx ∧ y = cy)) := by
  unfold Display.pixel
  rw [Display.plane_setPlane]
  split
  · rename_i h
    subst h
    unfold togglePlane rowOfPlane
    by_cases hyc : y = cy
    · subst hyc
      have := getLsbD_toggleBit (d.plane p)[y] cx x hx
      simpa [hy] using this
    · have : ¬ cy = y := Ne.symm hyc
      rw [Vector.getElem?_setIfInBounds]
      simp [this, hyc]
  · rename_i h
    simp [h]

/-- The place a toggle reaches: its plane and its wrapped position (R112). -/
def toggleTarget (w h : Nat) (t : PlaneId × Nat × Nat) : PlaneId × Nat × Nat := (t.1, t.2.1 % w, t.2.2 % h)

/-- The pixels and the hit flag after toggles that reach different places: each reached pixel is inverted, and `hit`
says whether one of them was lit (R115, R119). -/
theorem Display.toggleAll_spec (w h : Nat) (hw : 0 < w ∧ w ≤ 128) (hh : 0 < h ∧ h ≤ 64) (hit : Bool)
    (ts : List (PlaneId × Nat × Nat)) (hn : (ts.map (toggleTarget w h)).Nodup) :
    (∀ p x y, (d.toggleAll w h hit ts).1.pixel p x y =
      (d.pixel p x y ^^ decide ((p, x, y) ∈ ts.map (toggleTarget w h)))) ∧
    ((d.toggleAll w h hit ts).2 = true ↔
      hit = true ∨ ∃ p x y, (p, x, y) ∈ ts.map (toggleTarget w h) ∧ d.pixel p x y = true) := by
  induction ts generalizing d hit with
  | nil => simp [Display.toggleAll]
  | cons t ts ih =>
    obtain ⟨q, a, b⟩ := t
    rw [List.map_cons, List.nodup_cons] at hn
    have hx : a % w < 128 := lt_of_lt_of_le (Nat.mod_lt _ hw.1) hw.2
    have hy : b % h < 64 := lt_of_lt_of_le (Nat.mod_lt _ hh.1) hh.2
    have hpix := fun p x y => d.pixel_togglePlane p q x y (a % w) (b % h) hx hy
    obtain ⟨i1, i2⟩ := ih (d.toggle w h q a b).1 (hit || (d.toggle w h q a b).2) hn.2
    simp only [Display.toggle] at i1 i2
    have hm : ∀ p x y, (p, x, y) ∈ ts.map (toggleTarget w h) → ¬ (p = q ∧ x = a % w ∧ y = b % h) := by
      rintro p x y hmem ⟨rfl, rfl, rfl⟩
      exact hn.1 hmem
    constructor
    · intro p x y
      simp only [Display.toggleAll, Display.toggle]
      rw [i1, hpix, List.map_cons]
      by_cases h1 : (p, x, y) ∈ ts.map (toggleTarget w h)
      · have h2 := hm p x y h1
        simp [h1, h2]
      · simp [h1, toggleTarget]
    · simp only [Display.toggleAll, Display.toggle]
      rw [i2, List.map_cons]
      constructor
      · rintro (h1 | ⟨p, x, y, h1, h2⟩)
        · rcases Bool.or_eq_true _ _ ▸ h1 with h1 | h1
          · exact .inl h1
          · exact .inr ⟨q, a % w, b % h, by simp [toggleTarget], h1⟩
        · refine .inr ⟨p, x, y, List.mem_cons_of_mem _ h1, ?_⟩
          rw [hpix] at h2
          simpa [hm p x y h1] using h2
      · rintro (h1 | ⟨p, x, y, h1, h2⟩)
        · exact .inl (by simp [h1])
        · rcases List.mem_cons.mp h1 with h1 | h1
          · simp only [toggleTarget, Prod.mk.injEq] at h1
            obtain ⟨rfl, rfl, rfl⟩ := h1
            exact .inl (by simp [h2])
          · refine .inr ⟨p, x, y, h1, ?_⟩
            rw [hpix]
            simp [hm p x y h1, h2]

/-! ## The sprite's toggles (R119) -/

/-- The place a sprite pixel reaches: plane by plane of the list, each lit pixel wrapped on its own. -/
theorem State.mem_spriteToggles (s : State) (n : Nibble) (x0 y0 w h : Nat) (ps : List PlaneId) (p : PlaneId)
    (a b : Nat) :
    (p, a, b) ∈ (s.spriteToggles n x0 y0 ps).map (toggleTarget w h) ↔
      p ∈ ps ∧ ∃ r c, r < spriteRows n ∧ c < spriteWidth n ∧ s.spritePixel n r c = true ∧
        a = (x0 + c) % w ∧ b = (y0 + r) % h := by
  simp only [State.spriteToggles, State.litColumns, List.mem_map, List.mem_flatMap, List.mem_range, List.mem_filter]
  constructor
  · rintro ⟨_, ⟨r, hr, c, ⟨hc, hl⟩, q, hq, rfl⟩, e⟩
    simp only [toggleTarget, Prod.mk.injEq] at e
    obtain ⟨rfl, rfl, rfl⟩ := e
    exact ⟨hq, r, c, hr, hc, hl, rfl, rfl⟩
  · rintro ⟨hp, r, c, hr, hc, hl, rfl, rfl⟩
    exact ⟨_, ⟨r, hr, c, ⟨hc, hl⟩, p, hp, rfl⟩, rfl⟩

theorem add_mod_inj {x a b w : Nat} (ha : a < w) (hb : b < w) (h : (x + a) % w = (x + b) % w) : a = b := by
  have : a ≡ b [MOD w] := Nat.ModEq.add_left_cancel' x h
  rwa [Nat.ModEq, Nat.mod_eq_of_lt ha, Nat.mod_eq_of_lt hb] at this

/-- No place is reached twice, since a sprite is not wider or higher than the smallest screen (R112). -/
theorem State.nodup_spriteToggles (s : State) (n : Nibble) (x0 y0 w h : Nat) (hw : 16 ≤ w) (hh : 16 ≤ h)
    (ps : List PlaneId) (hp : ps.Nodup) : ((s.spriteToggles n x0 y0 ps).map (toggleTarget w h)).Nodup := by
  have rows : spriteRows n ≤ 16 := by
    have := n.isLt
    unfold spriteRows; split <;> omega
  have cols : spriteWidth n ≤ 16 := by unfold spriteWidth; split <;> omega
  simp only [State.spriteToggles, State.litColumns, List.map_flatMap, List.map_map]
  refine List.nodup_flatMap.mpr ⟨fun r hr => List.nodup_flatMap.mpr ⟨fun c hc => hp.map ?_, ?_⟩, ?_⟩
  · intro p q e
    simpa [toggleTarget] using e
  · refine List.Pairwise.imp_of_mem ?_ (List.nodup_range.filter _)
    intro c c' hc hc' hne
    rw [Function.onFun, List.disjoint_left]
    simp only [List.mem_filter, List.mem_range] at hc hc'
    rintro _ h1 h2
    obtain ⟨_, -, rfl⟩ := List.mem_map.mp h1
    obtain ⟨_, -, e⟩ := List.mem_map.mp h2
    simp only [toggleTarget, Function.comp, Prod.mk.injEq] at e
    exact hne (add_mod_inj (by omega) (by omega) e.2.1.symm)
  · refine List.Pairwise.imp_of_mem ?_ List.nodup_range
    intro r r' hr hr' hne
    rw [Function.onFun, List.disjoint_left]
    simp only [List.mem_range] at hr hr'
    rintro _ h1 h2
    obtain ⟨_, -, h1⟩ := List.mem_flatMap.mp h1
    obtain ⟨_, -, h2⟩ := List.mem_flatMap.mp h2
    obtain ⟨_, -, rfl⟩ := List.mem_map.mp h1
    obtain ⟨_, -, e⟩ := List.mem_map.mp h2
    simp only [toggleTarget, Function.comp, Prod.mk.injEq] at e
    exact hne (add_mod_inj (by omega) (by omega) e.2.2.symm)

/-! ## The screen -/

theorem State.width_le (s : State) : 0 < s.width ∧ s.width ≤ 128 := by
  unfold State.width; split <;> omega

theorem State.height_le (s : State) : 0 < s.height ∧ s.height ≤ 64 := by
  unfold State.height; split <;> omega

theorem State.width_ge (s : State) : 16 ≤ s.width := by
  unfold State.width; split <;> omega

theorem State.height_ge (s : State) : 16 ≤ s.height := by
  unfold State.height; split <;> omega

/-- What a draw leaves: the reached pixels inverted, and whether one of them was lit (R119). -/
theorem State.drawn_spec (s : State) (x y : Reg) (n : Nibble) :
    (∀ p a b, (s.drawn x y n).1.pixel p a b = (s.display.pixel p a b ^^
      decide ((p, a, b) ∈ (s.spriteToggles n (s.getV x).toNat (s.getV y).toNat (planes s.planeMask)).map
        (toggleTarget s.width s.height)))) ∧
    ((s.drawn x y n).2 = true ↔ ∃ p a b,
      (p, a, b) ∈ (s.spriteToggles n (s.getV x).toNat (s.getV y).toNat (planes s.planeMask)).map
        (toggleTarget s.width s.height) ∧ s.display.pixel p a b = true) := by
  have h := s.display.toggleAll_spec s.width s.height s.width_le s.height_le false _
    (s.nodup_spriteToggles n (s.getV x).toNat (s.getV y).toNat s.width s.height s.width_ge s.height_ge _
      (nodup_planes s.planeMask))
  exact ⟨h.1, h.2.trans (by rw [Bool.false_eq_true, false_or])⟩

@[simp] theorem pixel_dark (p : PlaneId) (x y : Nat) : Display.dark.pixel p x y = false := by
  unfold Display.pixel Display.dark
  by_cases h : y < 64 <;> cases p <;> simp [Display.plane, darkPlane, rowOfPlane, h]

/-- A cell is 0 exactly when neither plane's pixel is lit (R31). -/
theorem Display.cell_eq_zero (x y : Nat) : d.cell x y = 0 ↔ ∀ p, d.pixel p x y = false := by
  unfold Display.cell
  constructor
  · intro h p
    cases hb1 : d.pixel .one x y <;> cases hb2 : d.pixel .two x y <;> rw [hb1, hb2] at h <;>
      first
        | (cases p <;> assumption)
        | (exact absurd h (by decide))
  · intro h
    rw [h .one, h .two]
    decide

end Sys2Proof.Machine
end

