-- ==== Sys2Proof/Laws/Encoding.lean ====
section
/-! SUPPORT. The fields of a word put together from fields, the bytes of a word, and a word put together from its own
fields (30_encoding R65, 20_memory R50). -/

namespace Sys2Proof

/-! ## Fields of a word put together -/

section
variable (g : BitVec 4) (x y : Reg) (n : Nibble) (nn : Byte) (nnn : Addr12)

@[simp] theorem fieldG_wordXYN : fieldG (wordXYN g x y n) = g := by
  ext i hi; simp [fieldG, wordXYN]; grind

@[simp] theorem fieldX_wordXYN : fieldX (wordXYN g x y n) = x := by
  ext i hi; simp [fieldX, wordXYN]; grind

@[simp] theorem fieldY_wordXYN : fieldY (wordXYN g x y n) = y := by
  ext i hi; simp [fieldY, wordXYN]; grind

@[simp] theorem fieldN_wordXYN : fieldN (wordXYN g x y n) = n := by
  ext i hi; simp [fieldN, wordXYN]; grind

@[simp] theorem fieldNN_wordXYN : fieldNN (wordXYN g x y n) = y ++ n := by
  ext i hi; simp [fieldNN, wordXYN]; grind

@[simp] theorem fieldNNN_wordXYN : fieldNNN (wordXYN g x y n) = x ++ y ++ n := by
  ext i hi; simp [fieldNNN, wordXYN]; grind

@[simp] theorem fieldG_wordXNN : fieldG (wordXNN g x nn) = g := by
  ext i hi; simp [fieldG, wordXNN]; grind

@[simp] theorem fieldX_wordXNN : fieldX (wordXNN g x nn) = x := by
  ext i hi; simp [fieldX, wordXNN]; grind

@[simp] theorem fieldNN_wordXNN : fieldNN (wordXNN g x nn) = nn := by
  ext i hi; simp [fieldNN, wordXNN]; grind

@[simp] theorem fieldG_wordNNN : fieldG (wordNNN g nnn) = g := by
  ext i hi; simp [fieldG, wordNNN]; grind

@[simp] theorem fieldNNN_wordNNN : fieldNNN (wordNNN g nnn) = nnn := by
  ext i hi; simp [fieldNNN, wordNNN]; grind

end

/-! ## A word put together from its own fields -/

theorem word_of_XYN (w : Word) : wordXYN (fieldG w) (fieldX w) (fieldY w) (fieldN w) = w := by
  ext i hi; simp [wordXYN, fieldG, fieldX, fieldY, fieldN]; grind

theorem word_of_XNN (w : Word) : wordXNN (fieldG w) (fieldX w) (fieldNN w) = w := by
  ext i hi; simp [wordXNN, fieldG, fieldX, fieldNN]; grind

theorem word_of_NNN (w : Word) : wordNNN (fieldG w) (fieldNNN w) = w := by
  ext i hi; simp [wordNNN, fieldG, fieldNNN]; grind

theorem fieldNN_eq (w : Word) : fieldNN w = fieldY w ++ fieldN w := by
  ext i hi; simp [fieldNN, fieldY, fieldN]; grind

/-! ## Bytes -/

theorem bytesOfWord_wordOfBytes (hi lo : Byte) : bytesOfWord (wordOfBytes hi lo) = [hi, lo] := by
  have h1 : (wordOfBytes hi lo).extractLsb' 8 8 = hi := by
    ext i h; simp [wordOfBytes]; grind
  have h2 : (wordOfBytes hi lo).extractLsb' 0 8 = lo := by
    ext i h; simp [wordOfBytes]; grind
  rw [bytesOfWord, h1, h2]

theorem wordOfBytes_bytesOfWord (w : Word) : wordOfBytes (w.extractLsb' 8 8) (w.extractLsb' 0 8) = w := by
  ext i h; simp [wordOfBytes]; grind

/-! ## A word and the mask of a row (R70) -/

theorem and_wordXYN (g h : BitVec 4) (x a y b : Reg) (n k : Nibble) :
    wordXYN g x y n &&& wordXYN h a b k = wordXYN (g &&& h) (x &&& a) (y &&& b) (n &&& k) := by
  ext i hi; simp [wordXYN]; grind

theorem and_wordXNN (g h : BitVec 4) (x a : Reg) (nn k : Byte) :
    wordXNN g x nn &&& wordXNN h a k = wordXNN (g &&& h) (x &&& a) (nn &&& k) := by
  ext i hi; simp [wordXNN]; grind

theorem and_F000 (w : Word) : w &&& 0xF000#16 = wordXYN (fieldG w) 0#4 0#4 0#4 := by
  have h : 0xF000#16 = wordXYN 0xF 0 0 0 := by decide
  have a : ∀ q : BitVec 4, q &&& 15#4 = q := by decide
  rw [h, ← word_of_XYN w, and_wordXYN]; simp [a]

theorem and_F00F (w : Word) : w &&& 0xF00F#16 = wordXYN (fieldG w) 0#4 0#4 (fieldN w) := by
  have h : 0xF00F#16 = wordXYN 0xF 0 0 0xF := by decide
  have a : ∀ q : BitVec 4, q &&& 15#4 = q := by decide
  rw [h, ← word_of_XYN w, and_wordXYN]; simp [a]

theorem and_F0FF (w : Word) : w &&& 0xF0FF#16 = wordXNN (fieldG w) 0#4 (fieldNN w) := by
  have h : 0xF0FF#16 = wordXNN 0xF 0 0xFF := by decide
  have a : ∀ q : BitVec 4, q &&& 15#4 = q := by decide
  have b : ∀ q : BitVec 8, q &&& 255#8 = q := by decide
  rw [h, ← word_of_XNN w, and_wordXNN]; simp [a, b]

theorem and_FFF0 (w : Word) : w &&& 0xFFF0#16 = wordXYN (fieldG w) (fieldX w) (fieldY w) 0#4 := by
  have h : 0xFFF0#16 = wordXYN 0xF 0xF 0xF 0 := by decide
  have a : ∀ q : BitVec 4, q &&& 15#4 = q := by decide
  rw [h, ← word_of_XYN w, and_wordXYN]; simp [a]

/-- Two words put together from fields are equal exactly when the fields are. -/
theorem wordXYN_inj (g h : BitVec 4) (x a y b : Reg) (n k : Nibble) :
    wordXYN g x y n = wordXYN h a b k ↔ g = h ∧ x = a ∧ y = b ∧ n = k := by
  constructor
  · intro e
    exact ⟨by simpa using congrArg fieldG e, by simpa using congrArg fieldX e, by simpa using congrArg fieldY e,
      by simpa using congrArg fieldN e⟩
  · rintro ⟨rfl, rfl, rfl, rfl⟩; rfl

theorem wordXNN_inj (g h : BitVec 4) (x a : Reg) (n k : Byte) :
    wordXNN g x n = wordXNN h a k ↔ g = h ∧ x = a ∧ n = k := by
  constructor
  · intro e
    exact ⟨by simpa using congrArg fieldG e, by simpa using congrArg fieldX e, by simpa using congrArg fieldNN e⟩
  · rintro ⟨rfl, rfl, rfl⟩; rfl

/-! ## Decoding bytes -/

theorem instrLength_short (w : Word) (h : w ≠ longWord) : instrLength w = 2 := by simp [instrLength, h]

/-- Two bytes whose word is not F000 decode by that word alone (R69). -/
theorem decode_short (b0 b1 : Byte) (rest : List Byte) (h : wordOfBytes b0 b1 ≠ longWord) :
    decode (b0 :: b1 :: rest) = (classify (wordOfBytes b0 b1) 0).map fun i => (i, rest) := by
  simp [decode, instrLength_short _ h]

/-- Four bytes whose first word is F000 decode to the long load of the second word (R66). -/
theorem decode_long (b0 b1 b2 b3 : Byte) (rest : List Byte) (h : wordOfBytes b0 b1 = longWord) :
    decode (b0 :: b1 :: b2 :: b3 :: rest) = .ok (.ldILong (wordOfBytes b2 b3), rest) := by
  have e : ∀ n, classify longWord n = .ok (.ldILong n) := fun _ => rfl
  simp [decode, h, e, instrLength, Except.map]

/-- A group-F word with a low byte other than 0 is not the long word (R76). -/
theorem wordXNN_ne_long (x : Reg) (nn : Byte) (h : nn ≠ 0) : wordXNN 0xF x nn ≠ longWord := by
  intro e
  apply h
  simpa using (congrArg fieldNN e).trans (show fieldNN longWord = 0 by decide)

end Sys2Proof
end

