-- ==== Sys2Proof/Laws/Exec.lean ====
section
/-! SUPPORT. What an answered meaning can have done: one inversion lemma per shape of meaning, from which the frames and
the invariants follow without unfolding a check, a skip or a stack operation again. -/

namespace Sys2Proof.Machine

variable {s t u : State}

/-- A checked effect that answered: the effect, or the bounds fault (R47, R152). -/
theorem State.checkBound_next {k : AccessKind} {a : Nat} (h : s.checkBound k a (.next u) = .next t) :
    (a ≤ maxAddr ∧ t = u) ∨ (maxAddr < a ∧ t = s.raise (.outOfBounds k a) s.fetchedFrom) := by
  rcases s.checkBound_cases k a (.next u) with ⟨l, e⟩ | ⟨l, e⟩ <;> rw [e] at h <;> cases h
  · exact .inl ⟨l, rfl⟩
  · exact .inr ⟨l, rfl⟩

/-- A conditional skip that answered (R88). -/
theorem State.skipIf_next {c : Bool} (h : s.skipIf c = .next t) :
    (∃ w, t = s.setPc w) ∨ ∃ k a, t = s.raise (.outOfBounds k a) s.fetchedFrom := by
  rcases s.skipIf_cases c with ⟨-, e⟩ | ⟨-, w, e⟩ | ⟨-, k, a, -, e⟩ <;> rw [e] at h <;> cases h
  · exact .inl ⟨s.pc, rfl⟩
  · exact .inl ⟨w, rfl⟩
  · exact .inr ⟨k, a, rfl⟩

/-- A key skip that answered (R127). -/
theorem State.skipTwoIf_next {c : Bool} (h : s.skipTwoIf c = .next t) :
    (∃ w, t = s.setPc w) ∨ ∃ k a, t = s.raise (.outOfBounds k a) s.fetchedFrom := by
  rcases s.skipTwoIf_cases c with ⟨-, e⟩ | ⟨-, w, e⟩ | ⟨-, k, a, -, e⟩ <;> rw [e] at h <;> cases h
  · exact .inl ⟨s.pc, rfl⟩
  · exact .inl ⟨w, rfl⟩
  · exact .inr ⟨k, a, rfl⟩

/-- A CALL that answered: pushed and jumped, or overflowed (R89). -/
theorem execCall_next {nnn : Addr12} (h : execCall nnn s = .next t) :
    (s.sp < s.params.stackDepth ∧ s.sp < s.stack.length ∧
      t = { s with stack := s.stack.set s.sp s.pc, sp := s.sp + 1, pc := targetNNN nnn }) ∨
    (s.params.stackDepth ≤ s.sp ∧ t = s.raise (.stackOverflow s.fetchedFrom) s.fetchedFrom) := by
  unfold execCall at h
  split at h
  · rename_i hd
    rcases s.push_cases s.pc with ⟨l, e⟩ | ⟨-, e⟩ <;> rw [e] at h <;> cases h
    exact .inl ⟨hd, l, rfl⟩
  · rename_i hd
    cases h
    exact .inr ⟨by omega, rfl⟩

/-- A RET that answered: popped, or underflowed (R87). -/
theorem execRet_next (h : execRet s = .next t) :
    (1 ≤ s.sp ∧ ∃ w, s.stack[s.sp - 1]? = some w ∧
      t = { s with stack := s.stack.set (s.sp - 1) 0, sp := s.sp - 1, pc := w }) ∨
    (s.sp = 0 ∧ t = s.raise (.stackUnderflow s.fetchedFrom) s.fetchedFrom) := by
  unfold execRet at h
  split at h
  · rename_i hd
    rcases s.pop_cases with ⟨w, hw, e⟩ | ⟨-, e⟩ <;> rw [e] at h <;> cases h
    exact .inl ⟨hd, w, hw, rfl⟩
  · rename_i hd
    cases h
    exact .inr ⟨by omega, rfl⟩

/-- What an instruction does when it neither faults nor stops: the named update of the state that its meaning makes. -/
def Effect : Instr → State → State → Prop
  | .scd _, s, t | .scu _, s, t | .cls, s, t | .scr, s, t | .scl, s, t => ∃ d, t = s.present d
  | .lores, s, t => t = s.setResolution false
  | .hires, s, t => t = s.setResolution true
  | .ret, s, t => 1 ≤ s.sp ∧ ∃ w, s.stack[s.sp - 1]? = some w ∧
      t = { s with stack := s.stack.set (s.sp - 1) 0, sp := s.sp - 1, pc := w }
  | .call n, s, t => s.sp < s.params.stackDepth ∧ s.sp < s.stack.length ∧
      t = { s with stack := s.stack.set s.sp s.pc, sp := s.sp + 1, pc := targetNNN n }
  | .exit, s, t => t = s.halt
  | .jp _, s, t | .jpOffset _, s, t | .seImm _ _, s, t | .sneImm _ _, s, t => ∃ w, t = s.setPc w
  | .seReg _ _, s, t | .sneReg _ _, s, t | .skp _, s, t | .sknp _, s, t => ∃ w, t = s.setPc w
  | .save x y, s, t => s.i.toNat + rangeSpan x y ≤ maxAddr ∧
      t = s.setBytes s.i.toNat (s.regsFrom (rangeLo x y) (rangeSpan x y + 1))
  | .storeRegs x, s, t => s.i.toNat + x.toNat ≤ maxAddr ∧ t = s.setBytes s.i.toNat (s.regsFrom 0 (x.toNat + 1))
  | .ldB x, s, t => s.i.toNat + 2 ≤ maxAddr ∧ t = s.setBytes s.i.toNat (bcdDigits (s.getV x))
  | .load x y, s, t => s.i.toNat + rangeSpan x y ≤ maxAddr ∧
      t = s.setRegs (rangeLo x y) (s.bytesFrom s.i.toNat (rangeSpan x y + 1))
  | .loadRegs x, s, t => s.i.toNat + x.toNat ≤ maxAddr ∧ t = s.setRegs 0 (s.bytesFrom s.i.toNat (x.toNat + 1))
  | .restoreFlags x, s, t => t = s.setRegs 0 (s.flagsFrom 0 (x.toNat + 1))
  | .saveFlags x, s, t => t = s.setFlags 0 (s.regsFrom 0 (x.toNat + 1))
  | .ldImm x _, s, t | .addImm x _, s, t | .ldReg x _, s, t | .ldVxDt x, s, t => ∃ b, t = s.setV x b
  | .orReg x _, s, t | .andReg x _, s, t | .xorReg x _, s, t => ∃ b, t = s.setV x b
  | .addReg x _, s, t | .sub x _, s, t | .shr x _, s, t => ∃ f b, t = s.setVFThen f x b
  | .subn x _, s, t | .shl x _, s, t => ∃ f b, t = s.setVFThen f x b
  | .ldI _, s, t | .ldILong _, s, t | .addI _, s, t | .ldF _, s, t | .ldHf _, s, t => ∃ w, t = s.setI w
  | .rnd x nn, s, t => t = s.drawByte.2.setV x (s.drawByte.1 &&& nn)
  | .drw x y n, s, t => s.i.toNat + (spriteBytes n - 1) ≤ maxAddr ∧
      t = (s.present (s.drawn x y n).1).setV VF (flagByte (s.drawn x y n).2)
  | .plane x, s, t => t = s.setPlaneMask ((s.getV x).setWidth 2)
  | .ldVxK x, s, t => t = s.waitFor x
  | .ldDtVx x, s, t => t = s.setDt (s.getV x)
  | .ldStVx x, s, t => t = s.setSt (s.getV x)

/-- All an answered instruction can have done: taken a fault, which changes nothing but the halt, or its effect. -/
theorem exec_next {i : Instr} (h : exec i s = .next t) :
    (∃ k, t = s.raise k s.fetchedFrom) ∨ Effect i s t := by
  cases i <;> simp only [exec] at h
  case ret => rcases execRet_next h with h | ⟨-, rfl⟩; exacts [.inr h, .inl ⟨_, rfl⟩]
  case call => rcases execCall_next h with h | ⟨-, rfl⟩; exacts [.inr h, .inl ⟨_, rfl⟩]
  case seImm => rcases State.skipIf_next h with h | ⟨_, _, rfl⟩; exacts [.inr h, .inl ⟨_, rfl⟩]
  case sneImm => rcases State.skipIf_next h with h | ⟨_, _, rfl⟩; exacts [.inr h, .inl ⟨_, rfl⟩]
  case seReg => rcases State.skipIf_next h with h | ⟨_, _, rfl⟩; exacts [.inr h, .inl ⟨_, rfl⟩]
  case sneReg => rcases State.skipIf_next h with h | ⟨_, _, rfl⟩; exacts [.inr h, .inl ⟨_, rfl⟩]
  case skp => rcases State.skipTwoIf_next h with h | ⟨_, _, rfl⟩; exacts [.inr h, .inl ⟨_, rfl⟩]
  case sknp => rcases State.skipTwoIf_next h with h | ⟨_, _, rfl⟩; exacts [.inr h, .inl ⟨_, rfl⟩]
  case save => rcases State.checkBound_next h with h | ⟨_, rfl⟩; exacts [.inr h, .inl ⟨_, rfl⟩]
  case load => rcases State.checkBound_next h with h | ⟨_, rfl⟩; exacts [.inr h, .inl ⟨_, rfl⟩]
  case storeRegs => rcases State.checkBound_next h with h | ⟨_, rfl⟩; exacts [.inr h, .inl ⟨_, rfl⟩]
  case loadRegs => rcases State.checkBound_next h with h | ⟨_, rfl⟩; exacts [.inr h, .inl ⟨_, rfl⟩]
  case ldB => rcases State.checkBound_next h with h | ⟨_, rfl⟩; exacts [.inr h, .inl ⟨_, rfl⟩]
  case drw => rcases State.checkBound_next h with h | ⟨_, rfl⟩; exacts [.inr h, .inl ⟨_, rfl⟩]
  all_goals (cases h; refine .inr ?_; first | exact ⟨_, rfl⟩ | exact ⟨_, _, rfl⟩ | rfl)

/-- A step, by the run state the engine is in (R80, R81, R82). -/
theorem step_cases (s : State) :
    (s.halted = true ∧ step s = .next s) ∨
    (s.halted = false ∧ ∃ r, s.waiting = some r ∧ step s = .next (s.pollKeys r)) ∨
    (s.halted = false ∧ s.waiting = none ∧ ((∃ i u, s.fetchAdvance = .ok (i, u) ∧ step s = exec i u) ∨
      ∃ u, s.fetchAdvance = .error u ∧ step s = .next u)) := by
  unfold step
  cases hh : s.halted
  · rcases hw : s.waiting with _ | r
    · refine .inr (.inr ⟨rfl, rfl, ?_⟩)
      rcases hf : s.fetchAdvance with u | ⟨i, u⟩
      · exact .inr ⟨u, rfl, rfl⟩
      · exact .inl ⟨i, u, rfl, rfl⟩
    · exact .inr (.inl ⟨rfl, r, rfl, rfl⟩)
  · exact .inl ⟨rfl, rfl⟩

/-- A Running engine's step when the fetch gives an instruction (R82). -/
theorem step_ok {i : Instr} (hr : Running s) (h : s.fetchAdvance = .ok (i, t)) : step s = exec i t := by
  simp [step, hr.1, hr.2, h]

/-- A Running engine's step when the fetch takes a fault (R83). -/
theorem step_error (hr : Running s) (h : s.fetchAdvance = .error t) : step s = .next t := by
  simp [step, hr.1, hr.2, h]

/-- All the fetch half of the cycle can do: an instruction and the state with `pc` past it, or one of the four faults,
in their order (R82, R83, R154). -/
theorem State.fetchAdvance_cases (s : State) (a : Nat) (w : Word) (ha : a = s.pc.toNat) (hw : w = s.fetch16 a) :
    (maxAddr < a + 1 ∧ s.fetchAdvance = .error (s.raise (.outOfBounds .fetch (a + 1)) s.pc)) ∨
    (a + 1 ≤ maxAddr ∧ maxAddr < lastFetched a w ∧
      s.fetchAdvance = .error (s.raise (.outOfBounds .fetch (lastFetched a w)) s.pc)) ∨
    (lastFetched a w ≤ maxAddr ∧ maxAddr < a + instrLength w ∧
      s.fetchAdvance = .error (s.raise (.outOfBounds .pc (a + instrLength w)) s.pc)) ∨
    (a + instrLength w ≤ maxAddr ∧ (∃ e, classify w (s.fetchSecond a w) = .error e) ∧
      s.fetchAdvance =
        .error ((s.setPc (BitVec.ofNat 16 (a + instrLength w))).raise (.unknownOpcode w s.pc) s.pc)) ∨
    (a + instrLength w ≤ maxAddr ∧ ∃ i, classify w (s.fetchSecond a w) = .ok i ∧
      s.fetchAdvance = .ok (i, s.setPc (BitVec.ofNat 16 (a + instrLength w)))) := by
  subst ha hw
  unfold State.fetchAdvance
  dsimp only
  split
  · exact .inl ⟨‹_›, rfl⟩
  · refine .inr ?_
    split
    · exact .inl ⟨by omega, ‹_›, rfl⟩
    · refine .inr ?_
      split
      · exact .inl ⟨by omega, ‹_›, rfl⟩
      · refine .inr ?_
        split
        · rename_i i e
          exact .inr ⟨by omega, i, e, rfl⟩
        · rename_i e' e
          exact .inl ⟨by omega, ⟨e', e⟩, rfl⟩

end Sys2Proof.Machine
end

