-- ==== Sys2Proof/Laws/PerInstr.lean ====
section
/-! SUPPORT. The family EncodesInRow: an instruction's words are of its row of the opcode table, and as long as the
decoder says (30_encoding R69, R70). One lemma per constructor. -/

namespace Sys2Proof.Laws.EncodesInRow

/-- The first word of the instruction matches the mask and match of its row, and the length the decoder finds from that
word is the length of the encoding in bytes. -/
def Statement (i : Instr) : Prop :=
  ∃ w ws, encode i = w :: ws ∧ (rowOf i).hit w = true ∧ instrLength w = (encodeBytes i).length

/-- A word of a row with mask F000 or F00F or FFF0 in a group other than F has two bytes. -/
theorem short_of_group (w : Word) (h : fieldG w ≠ 0xF) : instrLength w = 2 := by
  have : w ≠ longWord := by rintro rfl; exact h (by decide)
  simp [instrLength, this]

/-- A word whose low byte is not zero has two bytes. -/
theorem short_of_low (w : Word) (h : fieldNN w ≠ 0) : instrLength w = 2 := by
  have : w ≠ longWord := by rintro rfl; exact h (by decide)
  simp [instrLength, this]

theorem scd (n : Nibble) : Statement (.scd n) := 
  ⟨_, _, rfl, by simp [OpcodeRow.hit, rowOf, and_FFF0]; decide, short_of_group _ (by simp)⟩

theorem scu (n : Nibble) : Statement (.scu n) := 
  ⟨_, _, rfl, by simp [OpcodeRow.hit, rowOf, and_FFF0]; decide, short_of_group _ (by simp)⟩

theorem cls : Statement .cls := ⟨_, _, rfl, by decide, by decide⟩

theorem ret : Statement .ret := ⟨_, _, rfl, by decide, by decide⟩

theorem scr : Statement .scr := ⟨_, _, rfl, by decide, by decide⟩

theorem scl : Statement .scl := ⟨_, _, rfl, by decide, by decide⟩

theorem exit : Statement .exit := ⟨_, _, rfl, by decide, by decide⟩

theorem lores : Statement .lores := ⟨_, _, rfl, by decide, by decide⟩

theorem hires : Statement .hires := ⟨_, _, rfl, by decide, by decide⟩

theorem jp (nnn : Addr12) : Statement (.jp nnn) := 
  ⟨_, _, rfl, by simp [OpcodeRow.hit, rowOf, and_F000]; decide, short_of_group _ (by simp)⟩

theorem call (nnn : Addr12) : Statement (.call nnn) := 
  ⟨_, _, rfl, by simp [OpcodeRow.hit, rowOf, and_F000]; decide, short_of_group _ (by simp)⟩

theorem seImm (x : Reg) (nn : Byte) : Statement (.seImm x nn) := 
  ⟨_, _, rfl, by simp [OpcodeRow.hit, rowOf, and_F000]; decide, short_of_group _ (by simp)⟩

theorem sneImm (x : Reg) (nn : Byte) : Statement (.sneImm x nn) := 
  ⟨_, _, rfl, by simp [OpcodeRow.hit, rowOf, and_F000]; decide, short_of_group _ (by simp)⟩

theorem seReg (x : Reg) (y : Reg) : Statement (.seReg x y) := 
  ⟨_, _, rfl, by simp [OpcodeRow.hit, rowOf, and_F00F]; decide, short_of_group _ (by simp)⟩

theorem save (x : Reg) (y : Reg) : Statement (.save x y) := 
  ⟨_, _, rfl, by simp [OpcodeRow.hit, rowOf, and_F00F]; decide, short_of_group _ (by simp)⟩

theorem load (x : Reg) (y : Reg) : Statement (.load x y) := 
  ⟨_, _, rfl, by simp [OpcodeRow.hit, rowOf, and_F00F]; decide, short_of_group _ (by simp)⟩

theorem ldImm (x : Reg) (nn : Byte) : Statement (.ldImm x nn) := 
  ⟨_, _, rfl, by simp [OpcodeRow.hit, rowOf, and_F000]; decide, short_of_group _ (by simp)⟩

theorem addImm (x : Reg) (nn : Byte) : Statement (.addImm x nn) := 
  ⟨_, _, rfl, by simp [OpcodeRow.hit, rowOf, and_F000]; decide, short_of_group _ (by simp)⟩

theorem ldReg (x : Reg) (y : Reg) : Statement (.ldReg x y) := 
  ⟨_, _, rfl, by simp [OpcodeRow.hit, rowOf, and_F00F]; decide, short_of_group _ (by simp)⟩

theorem orReg (x : Reg) (y : Reg) : Statement (.orReg x y) := 
  ⟨_, _, rfl, by simp [OpcodeRow.hit, rowOf, and_F00F]; decide, short_of_group _ (by simp)⟩

theorem andReg (x : Reg) (y : Reg) : Statement (.andReg x y) := 
  ⟨_, _, rfl, by simp [OpcodeRow.hit, rowOf, and_F00F]; decide, short_of_group _ (by simp)⟩

theorem xorReg (x : Reg) (y : Reg) : Statement (.xorReg x y) := 
  ⟨_, _, rfl, by simp [OpcodeRow.hit, rowOf, and_F00F]; decide, short_of_group _ (by simp)⟩

theorem addReg (x : Reg) (y : Reg) : Statement (.addReg x y) := 
  ⟨_, _, rfl, by simp [OpcodeRow.hit, rowOf, and_F00F]; decide, short_of_group _ (by simp)⟩

theorem sub (x : Reg) (y : Reg) : Statement (.sub x y) := 
  ⟨_, _, rfl, by simp [OpcodeRow.hit, rowOf, and_F00F]; decide, short_of_group _ (by simp)⟩

theorem shr (x : Reg) (y : Reg) : Statement (.shr x y) := 
  ⟨_, _, rfl, by simp [OpcodeRow.hit, rowOf, and_F00F]; decide, short_of_group _ (by simp)⟩

theorem subn (x : Reg) (y : Reg) : Statement (.subn x y) := 
  ⟨_, _, rfl, by simp [OpcodeRow.hit, rowOf, and_F00F]; decide, short_of_group _ (by simp)⟩

theorem shl (x : Reg) (y : Reg) : Statement (.shl x y) := 
  ⟨_, _, rfl, by simp [OpcodeRow.hit, rowOf, and_F00F]; decide, short_of_group _ (by simp)⟩

theorem sneReg (x : Reg) (y : Reg) : Statement (.sneReg x y) := 
  ⟨_, _, rfl, by simp [OpcodeRow.hit, rowOf, and_F00F]; decide, short_of_group _ (by simp)⟩

theorem ldI (nnn : Addr12) : Statement (.ldI nnn) := 
  ⟨_, _, rfl, by simp [OpcodeRow.hit, rowOf, and_F000]; decide, short_of_group _ (by simp)⟩

theorem jpOffset (nnn : Addr12) : Statement (.jpOffset nnn) := 
  ⟨_, _, rfl, by simp [OpcodeRow.hit, rowOf, and_F000]; decide, short_of_group _ (by simp)⟩

theorem rnd (x : Reg) (nn : Byte) : Statement (.rnd x nn) := 
  ⟨_, _, rfl, by simp [OpcodeRow.hit, rowOf, and_F000]; decide, short_of_group _ (by simp)⟩

theorem drw (x : Reg) (y : Reg) (n : Nibble) : Statement (.drw x y n) := 
  ⟨_, _, rfl, by simp [OpcodeRow.hit, rowOf, and_F000]; decide, short_of_group _ (by simp)⟩

theorem skp (x : Reg) : Statement (.skp x) := 
  ⟨_, _, rfl, by simp [OpcodeRow.hit, rowOf, and_F0FF]; decide, short_of_group _ (by simp)⟩

theorem sknp (x : Reg) : Statement (.sknp x) := 
  ⟨_, _, rfl, by simp [OpcodeRow.hit, rowOf, and_F0FF]; decide, short_of_group _ (by simp)⟩

theorem ldILong (nnnn : Word) : Statement (.ldILong nnnn) := ⟨_, _, rfl, by simp [rowOf]; decide, by simp [instrLength, encodeBytes, encode, bytesOfWord]⟩

theorem plane (x : Reg) : Statement (.plane x) := 
  ⟨_, _, rfl, by simp [OpcodeRow.hit, rowOf, and_F0FF]; decide, short_of_low _ (by simp)⟩

theorem ldVxDt (x : Reg) : Statement (.ldVxDt x) := 
  ⟨_, _, rfl, by simp [OpcodeRow.hit, rowOf, and_F0FF]; decide, short_of_low _ (by simp)⟩

theorem ldVxK (x : Reg) : Statement (.ldVxK x) := 
  ⟨_, _, rfl, by simp [OpcodeRow.hit, rowOf, and_F0FF]; decide, short_of_low _ (by simp)⟩

theorem ldDtVx (x : Reg) : Statement (.ldDtVx x) := 
  ⟨_, _, rfl, by simp [OpcodeRow.hit, rowOf, and_F0FF]; decide, short_of_low _ (by simp)⟩

theorem ldStVx (x : Reg) : Statement (.ldStVx x) := 
  ⟨_, _, rfl, by simp [OpcodeRow.hit, rowOf, and_F0FF]; decide, short_of_low _ (by simp)⟩

theorem addI (x : Reg) : Statement (.addI x) := 
  ⟨_, _, rfl, by simp [OpcodeRow.hit, rowOf, and_F0FF]; decide, short_of_low _ (by simp)⟩

theorem ldF (x : Reg) : Statement (.ldF x) := 
  ⟨_, _, rfl, by simp [OpcodeRow.hit, rowOf, and_F0FF]; decide, short_of_low _ (by simp)⟩

theorem ldHf (x : Reg) : Statement (.ldHf x) := 
  ⟨_, _, rfl, by simp [OpcodeRow.hit, rowOf, and_F0FF]; decide, short_of_low _ (by simp)⟩

theorem ldB (x : Reg) : Statement (.ldB x) := 
  ⟨_, _, rfl, by simp [OpcodeRow.hit, rowOf, and_F0FF]; decide, short_of_low _ (by simp)⟩

theorem storeRegs (x : Reg) : Statement (.storeRegs x) := 
  ⟨_, _, rfl, by simp [OpcodeRow.hit, rowOf, and_F0FF]; decide, short_of_low _ (by simp)⟩

theorem loadRegs (x : Reg) : Statement (.loadRegs x) := 
  ⟨_, _, rfl, by simp [OpcodeRow.hit, rowOf, and_F0FF]; decide, short_of_low _ (by simp)⟩

theorem saveFlags (x : Reg) : Statement (.saveFlags x) := 
  ⟨_, _, rfl, by simp [OpcodeRow.hit, rowOf, and_F0FF]; decide, short_of_low _ (by simp)⟩

theorem restoreFlags (x : Reg) : Statement (.restoreFlags x) := 
  ⟨_, _, rfl, by simp [OpcodeRow.hit, rowOf, and_F0FF]; decide, short_of_low _ (by simp)⟩

end Sys2Proof.Laws.EncodesInRow
end

