-- ==== Sys2Proof/Laws/Session.lean ====
section
/-! SUPPORT. What an answered load, an answered host operation and an answered sequence of them can have done, so that no
proof over sessions unfolds the protocol again (60_exceptions R166). -/

namespace Sys2Proof.Machine

variable {h h' : Session} {op : HostOp} {ops : List HostOp} {image : List Byte}

/-- The three ends of a load (R169, R171, U10, U11). -/
theorem Session.load_cases (h : Session) (image : List Byte) :
    (h.loadOpen = true ∧ image.length ≤ 0xFE00 ∧
      h.load image = .next { machine := h.machine.setBytes loadAddr image, loadOpen := false }) ∨
    (h.loadOpen = true ∧ 0xFE00 < image.length ∧ h.load image = .refused .imageTooLarge) ∨
    (h.loadOpen = false ∧ h.load image = .refused .loadNotAllowed) := by
  cases ho : h.loadOpen
  · exact .inr (.inr ⟨rfl, by simp [Session.load, ho]⟩)
  by_cases hf : image.length ≤ 0xFE00
  · exact .inl ⟨rfl, hf, by simp [Session.load, State.loadImage, imageFits, ho, hf]⟩
  · exact .inr (.inl ⟨rfl, by omega, by simp [Session.load, State.loadImage, imageFits, ho, hf]⟩)

/-- Everything an answered host operation can have done (R166). -/
theorem Session.apply_next (e : h.apply op = .next h') :
    (op = .init ∧ h' = { machine := h.machine.init, loadOpen := true }) ∨
    (∃ image, op = .load image ∧ h.loadOpen = true ∧ image.length ≤ 0xFE00 ∧
      h' = { machine := h.machine.setBytes loadAddr image, loadOpen := false }) ∨
    (∃ keys s, op = .step keys ∧ Sys2Proof.Machine.step (h.machine.withKeys keys) = .next s ∧
      h' = { machine := s, loadOpen := false }) ∨
    (op = .tick ∧ h' = { h with machine := h.machine.tick }) ∨
    (op = .ackFrame ∧ h' = { h with machine := h.machine.ackFrame }) ∨ (op = .readSurface ∧ h' = h) := by
  cases op with
  | init => cases e; exact .inl ⟨rfl, rfl⟩
  | load image =>
    rw [Session.apply] at e
    rcases h.load_cases image with ⟨ho, hl, l⟩ | ⟨-, -, l⟩ | ⟨-, l⟩ <;> rw [l] at e <;> cases e
    exact .inr (.inl ⟨image, rfl, ho, hl, rfl⟩)
  | step keys =>
    rw [Session.apply, Session.step] at e
    split at e <;> cases e
    exact .inr (.inr (.inl ⟨keys, _, rfl, ‹_›, rfl⟩))
  | tick => cases e; exact .inr (.inr (.inr (.inl ⟨rfl, rfl⟩)))
  | ackFrame => cases e; exact .inr (.inr (.inr (.inr (.inl ⟨rfl, rfl⟩))))
  | readSurface => cases e; exact .inr (.inr (.inr (.inr (.inr ⟨rfl, rfl⟩))))

/-- An answered sequence has an answered first operation and an answered rest. -/
theorem Session.run_next (e : h.run (op :: ops) = .next h') : ∃ h₁, h.apply op = .next h₁ ∧ h₁.run ops = .next h' := by
  rw [Session.run] at e
  split at e
  · exact ⟨_, ‹_›, e⟩
  · cases e
  · cases e

end Sys2Proof.Machine
end

