-- ==== Sys2Proof/Tests/Slice0.lean ====
section
/-! SUPPORT. The model's own tests. Expected results are the spec's: the encodings of 30_encoding R70 written out bit by
bit, and the vectors of 95_test_vectors.md, whose names (A10, D7, ...) stand in the docstrings. The last part shows, for
every statement with hypotheses, a concrete case that meets them. -/

namespace Sys2Proof.Tests

open Sys2Proof Sys2Proof.Machine

/-! ## Helpers -/

/-- After reset, with the words loaded at 0x200. -/
def boot (ws : List Word) : State := State.reset.setBytes 0x200 (ws.flatMap bytesOfWord)

/-- The same words at another place, with `pc` there. -/
def bootAt (pc : Word) (ws : List Word) : State :=
  { State.reset.setBytes pc.toNat (ws.flatMap bytesOfWord) with pc := pc }

/-- What an answer shows of its next state. -/
def seen {α : Type} (r : Result) (f : State → α) : Option α :=
  match r with
  | .next t => some (f t)
  | _ => none

/-- A pixel turned on. -/
def lit (s : State) (p : PlaneId) (x y : Nat) : State := { s with display := (s.display.toggle 128 64 p x y).1 }

/-- The snapshot in which one key is pressed. -/
def onlyKey (k : Nat) : Vector Bool 16 := Vector.ofFn fun i => i.val == k

/-- The instruction at the front of some bytes. -/
def decoded (bs : List Byte) : Option Instr :=
  match decode bs with
  | .ok (i, _) => some i
  | .error _ => none

/-! ## Well-formedness: each check refuses an ill-formed term -/

theorem test_wf_default : defaultParams.wf = true := by decide

theorem test_wf_refuses_shallow_stack :
    ({ defaultParams with stackDepth := 15 } : Params).depthOk = false ∧
    ({ defaultParams with stackDepth := 15 } : Params).wf = false := by decide

theorem test_wf_refuses_high_fonts :
    ({ defaultParams with fontSmallBase := 0x111 } : Params).fontsOk = false ∧
    ({ defaultParams with fontSmallBase := 0x111 } : Params).wf = false := by decide

theorem test_wf_accepts_boundary : ({ defaultParams with fontSmallBase := 0x110 } : Params).wf = true := by decide

/-- Vectors H3 and H4. -/
theorem test_wf_refuses_long_image :
    imageFits (List.replicate 0xFE01 0) = false ∧ imageFits (List.replicate 0xFE00 0) = true := by
  unfold imageFits
  rw [List.length_replicate, List.length_replicate]
  decide

/-! ## Decoding: a word of every row, written out bit by bit (R65, R70) -/

theorem test_decode_group0 :
    decodeTableWord 16 0b0000_0000_1100_0101 = some (.scd 5) ∧
    decodeTableWord 16 0b0000_0000_1101_0111 = some (.scu 7) ∧
    decodeTableWord 16 0b0000_0000_1110_0000 = some .cls ∧
    decodeTableWord 16 0b0000_0000_1110_1110 = some .ret ∧
    decodeTableWord 16 0b0000_0000_1111_1011 = some .scr ∧
    decodeTableWord 16 0b0000_0000_1111_1100 = some .scl ∧
    decodeTableWord 16 0b0000_0000_1111_1101 = some .exit ∧
    decodeTableWord 16 0b0000_0000_1111_1110 = some .lores ∧
    decodeTableWord 16 0b0000_0000_1111_1111 = some .hires := by decide

theorem test_decode_flow :
    decodeTableWord 16 0b0001_0010_0011_0100 = some (.jp 0x234) ∧
    decodeTableWord 16 0b0010_0011_0000_0000 = some (.call 0x300) ∧
    decodeTableWord 16 0b0011_0001_0000_0101 = some (.seImm 1 5) ∧
    decodeTableWord 16 0b0100_0001_1000_0000 = some (.sneImm 1 0x80) ∧
    decodeTableWord 16 0b0101_0001_0010_0000 = some (.seReg 1 2) ∧
    decodeTableWord 16 0b1001_0001_0010_0000 = some (.sneReg 1 2) ∧
    decodeTableWord 16 0b1011_0010_0011_0100 = some (.jpOffset 0x234) := by decide

theorem test_decode_alu :
    decodeTableWord 16 0b0110_1010_1111_1110 = some (.ldImm 0xA 0xFE) ∧
    decodeTableWord 16 0b0111_0000_0000_0011 = some (.addImm 0 3) ∧
    decodeTableWord 16 0b1000_0001_0010_0000 = some (.ldReg 1 2) ∧
    decodeTableWord 16 0b1000_0001_0010_0001 = some (.orReg 1 2) ∧
    decodeTableWord 16 0b1000_0001_0010_0010 = some (.andReg 1 2) ∧
    decodeTableWord 16 0b1000_0001_0010_0011 = some (.xorReg 1 2) ∧
    decodeTableWord 16 0b1000_1111_1110_0100 = some (.addReg 15 14) ∧
    decodeTableWord 16 0b1000_0001_0010_0101 = some (.sub 1 2) ∧
    decodeTableWord 16 0b1000_0001_0010_0110 = some (.shr 1 2) ∧
    decodeTableWord 16 0b1000_0001_0010_0111 = some (.subn 1 2) ∧
    decodeTableWord 16 0b1000_0001_0010_1110 = some (.shl 1 2) ∧
    decodeTableWord 16 0b1100_0000_0000_1111 = some (.rnd 0 0x0F) := by decide

theorem test_decode_display_keys :
    decodeTableWord 16 0b1101_0001_0010_1010 = some (.drw 1 2 10) ∧
    decodeTableWord 16 0b1111_0011_0000_0001 = some (.plane 3) ∧
    decodeTableWord 16 0b1110_1111_1001_1110 = some (.skp 15) ∧
    decodeTableWord 16 0b1110_0001_1010_0001 = some (.sknp 1) ∧
    decodeTableWord 16 0b1111_0011_0000_1010 = some (.ldVxK 3) ∧
    decodeTableWord 16 0b1111_0101_0000_0111 = some (.ldVxDt 5) ∧
    decodeTableWord 16 0b1111_0101_0001_0101 = some (.ldDtVx 5) ∧
    decodeTableWord 16 0b1111_0101_0001_1000 = some (.ldStVx 5) := by decide

theorem test_decode_memory :
    decodeTableWord 16 0b1010_0011_0000_0001 = some (.ldI 0x301) ∧
    decodeTableWord 32 0b0001_0010_0011_0100_1111_0000_0000_0000 = some (.ldILong 0x1234) ∧
    decodeTableWord 16 0b1111_0100_0001_1110 = some (.addI 4) ∧
    decodeTableWord 16 0b1111_0100_0010_1001 = some (.ldF 4) ∧
    decodeTableWord 16 0b1111_0100_0011_0000 = some (.ldHf 4) ∧
    decodeTableWord 16 0b1111_0010_0011_0011 = some (.ldB 2) ∧
    decodeTableWord 16 0b1111_0010_0101_0101 = some (.storeRegs 2) ∧
    decodeTableWord 16 0b1111_0010_0110_0101 = some (.loadRegs 2) ∧
    decodeTableWord 16 0b0101_0100_0011_0010 = some (.save 4 3) ∧
    decodeTableWord 16 0b0101_0100_0011_0011 = some (.load 4 3) ∧
    decodeTableWord 16 0b1111_0001_0111_0101 = some (.saveFlags 1) ∧
    decodeTableWord 16 0b1111_1111_1000_0101 = some (.restoreFlags 15) := by decide

/-- Vectors E1–E33: the words that are Unknown. -/
theorem test_decode_unknown :
    [0x0000, 0x00BF, 0x00E1, 0x00FA, 0x01E0, 0x0123, 0x5121, 0x512F, 0x8008, 0x800F].map (decodeTableWord 16) =
      List.replicate 10 none ∧
    [0x9011, 0xE09F, 0xF100, 0xF002, 0xF13A, 0xF0FF, 0xFFFF].map (decodeTableWord 16) = List.replicate 7 none := by
  decide

/-- The bytes as memory holds them: the high byte first (R50), and F000 alone has four (R69). -/
theorem test_decode_bytes :
    decoded [0xD1, 0x2A] = some (.drw 1 2 10) ∧ decoded [0xF0, 0x00, 0x12, 0x34] = some (.ldILong 0x1234) ∧
    decoded [0xF0, 0x00, 0x12] = none ∧ instrLength 0xF000 = 4 ∧ instrLength 0xF100 = 2 ∧
    encodeBytes (.ldILong 0x1234) = [0xF0, 0x00, 0x12, 0x34] ∧ encodeBytes (.drw 1 2 10) = [0xD1, 0x2A] := by decide

/-! ## The step cycle (vectors S1–S10, W1) -/

/-- W1: an Unknown word halts with `pc` advanced. -/
theorem test_unknown_halts : seen (step (boot [0x0123])) (fun t => (t.halted, t.haltReason, t.pc)) =
    some (true, some (.fault (.unknownOpcode 0x0123 0x200) 0x200), 0x202) := by decide

/-- S3: the advance check comes before the classification. -/
theorem test_advance_before_unknown : seen (step (bootAt 0xFFFE [0x0000])) (fun t => (t.haltReason, t.pc)) =
    some (some (.fault (.outOfBounds .pc 0x10000) 0xFFFE), 0xFFFE) := by decide

/-- S4: at 0xFFFC the fetch of F000 succeeds and the advance fails. -/
theorem test_long_at_FFFC : seen (step (bootAt 0xFFFC [0xF000, 0x1234])) (fun t => (t.haltReason, t.pc, t.i)) =
    some (some (.fault (.outOfBounds .pc 0x10000) 0xFFFC), 0xFFFC, 0) := by decide

/-- S5: at 0xFFFD it does not. -/
theorem test_long_at_FFFD : seen (step (bootAt 0xFFFD [0xF000])) (fun t => (t.haltReason, t.pc)) =
    some (some (.fault (.outOfBounds .fetch 0x10000) 0xFFFD), 0xFFFD) := by decide

/-- S10: key 0 ends a wait. -/
theorem test_poll_key0 :
    seen (step ({ (boot [0x6001]).setV VF 0x77 with waiting := some 0xF, keys := onlyKey 0 }))
      (fun t => (t.getV VF, t.waiting, t.pc)) = some (0, none, 0x200) := by decide

/-! ## Control transfer (vectors F1–F22) -/

theorem test_F1_jp : seen (step (boot [0x1234])) (fun t => t.pc) = some 0x234 := by decide

theorem test_F3_call : seen (step (boot [0x2300])) (fun t => (t.stack.take 1, t.sp, t.pc)) =
    some ([0x202], 1, 0x300) := by decide

theorem test_F4_overflow : seen (step { boot [0x2300] with sp := 16 }) (fun t => (t.haltReason, t.pc, t.sp)) =
    some (some (.fault (.stackOverflow 0x200) 0x200), 0x202, 16) := by decide

theorem test_F5_underflow : seen (step (boot [0x00EE])) (fun t => (t.haltReason, t.pc, t.sp)) =
    some (some (.fault (.stackUnderflow 0x200) 0x200), 0x202, 0) := by decide

theorem test_F6_ret :
    seen (step { boot [0x00EE] with sp := 2, stack := [0x20A, 0x404] ++ List.replicate 14 0 })
      (fun t => (t.sp, t.stack.take 2, t.pc)) = some (1, [0x20A, 0], 0x404) := by decide

theorem test_F9_skip_four : seen (step ((boot [0x3005, 0xF000, 0x1234]).setV 0 5)) (fun t => (t.pc, t.i)) =
    some (0x206, 0) := by decide

theorem test_F10_skip_unknown : seen (step ((boot [0x3005, 0xFFFF]).setV 0 5)) (fun t => (t.pc, t.halted)) =
    some (0x204, false) := by decide

theorem test_F11_sne : seen (step (boot [0x4100])) (fun t => t.pc) = some 0x202 := by decide

theorem test_F12_sne : seen (step ((boot [0x4100]).setV 1 1)) (fun t => t.pc) = some 0x204 := by decide

theorem test_F13_se_reg : seen (step (((boot [0x5340, 0xF000]).setV 3 7).setV 4 7)) (fun t => t.pc) =
    some 0x206 := by decide

theorem test_F15_sne_reg : seen (step (((boot [0x9010]).setV 0 1).setV 1 2)) (fun t => t.pc) = some 0x204 := by decide

theorem test_F18_offset_v0 :
    seen (step { ((boot [0xB234]).setV 2 0x10).setV 0 1 with params := { defaultParams with jumpOffsetReg := .v0 } })
      (fun t => t.pc) = some 0x235 := by decide

theorem test_F19_offset_vx : seen (step ((boot [0xBFFF]).setV VF 0xFF)) (fun t => t.pc) = some 0x10FE := by decide

theorem test_F20_exit : seen (step (boot [0x00FD])) (fun t => (t.halted, t.haltReason, t.pc)) =
    some (true, some .exit, 0x202) := by decide

theorem test_F21_skip_off_the_top : seen (step (bootAt 0xFFFC [0x3000, 0x6000])) (fun t => (t.haltReason, t.pc)) =
    some (some (.fault (.outOfBounds .pc 0x10000) 0xFFFC), 0xFFFE) := by decide

theorem test_F22_no_skip_no_fault : seen (step ((bootAt 0xFFFC [0x3000]).setV 0 1)) (fun t => (t.halted, t.pc)) =
    some (false, 0xFFFE) := by decide

/-! ## Arithmetic and logic (vectors A1–A31) -/

theorem test_A1_ld : seen (step (boot [0x6AFF])) (fun t => t.getV 0xA) = some 0xFF := by decide

theorem test_A2_add_imm : seen (step (((boot [0x7001]).setV 0 0xFF).setV VF 0x55)) (fun t => (t.getV 0, t.getV VF)) =
    some (0x00, 0x55) := by decide

theorem test_A4_assign : seen (step ((boot [0x8010]).setV 1 0x42)) (fun t => t.getV 0) = some 0x42 := by decide

theorem test_A5_or : seen (step ((((boot [0x8011]).setV 0 0x0F).setV 1 0xF0).setV VF 0x55))
    (fun t => (t.getV 0, t.getV VF)) = some (0xFF, 0x55) := by decide

theorem test_A6_and : seen (step ((((boot [0x8012]).setV 0 0x3C).setV 1 0x0F).setV VF 0x55))
    (fun t => (t.getV 0, t.getV VF)) = some (0x0C, 0x55) := by decide

theorem test_A7_xor : seen (step ((((boot [0x8013]).setV 0 0xFF).setV 1 0x0F).setV VF 0x55))
    (fun t => (t.getV 0, t.getV VF)) = some (0xF0, 0x55) := by decide

theorem test_A10_add : seen (step (((boot [0x8014]).setV 0 0xFF).setV 1 0x01)) (fun t => (t.getV 0, t.getV VF)) =
    some (0x00, 1) := by decide

/-- W4: the source's own example. -/
theorem test_W4_add_into_VF : seen (step (((boot [0x8FE4]).setV VF 250).setV 14 10))
    (fun t => (t.getV VF, t.getV 14)) = some (4, 10) := by decide

theorem test_A15_sub : seen (step (((boot [0x8235]).setV 2 5).setV 3 7)) (fun t => (t.getV 2, t.getV VF)) =
    some (0xFE, 0) := by decide

theorem test_A18_sub_into_VF : seen (step (((boot [0x8F15]).setV VF 0x10).setV 1 1)) (fun t => t.getV VF) =
    some 0x0F := by decide

theorem test_A19_subn : seen (step (((boot [0x8017]).setV 0 3).setV 1 10)) (fun t => (t.getV 0, t.getV VF)) =
    some (7, 1) := by decide

theorem test_A20_subn : seen (step (((boot [0x8017]).setV 0 10).setV 1 3)) (fun t => (t.getV 0, t.getV VF)) =
    some (0xF9, 0) := by decide

theorem test_A23_shr : seen (step (((boot [0x85E6]).setV 5 0x80).setV 14 0xFF))
    (fun t => (t.getV 5, t.getV VF, t.getV 14)) = some (0x40, 0, 0xFF) := by decide

theorem test_A24_shr_VF : seen (step ((boot [0x8F06]).setV VF 0x06)) (fun t => t.getV VF) = some 0x03 := by decide

theorem test_A25_shl : seen (step ((boot [0x830E]).setV 3 0x87)) (fun t => (t.getV 3, t.getV VF)) =
    some (0x0E, 1) := by decide

theorem test_A28_shl_VF : seen (step ((boot [0x8F0E]).setV VF 0x81)) (fun t => t.getV VF) = some 0x02 := by decide

/-- A30: under the mask 0 every draw gives 0. -/
theorem test_A30_rnd : seen (exec (.rnd 0 0) (boot [])) (fun t => (t.getV 0, t.draws)) = some (0, 1) := by
  have h : ∀ b : Byte, b &&& 0 = 0 := by decide
  simp only [exec, execRnd, seen, State.getV_setV, h]
  rfl

/-! ## Display (vectors D1–D34) -/

theorem test_D1_cls :
    seen (step (lit (lit (lit (boot [0x00E0]) .one 0 0) .two 0 0) .one 9 9))
      (fun t => (t.display.cell 0 0, t.display.cell 9 9, t.redraw)) = some (2, 0, true) := by decide

theorem test_D6_draw_wraps :
    seen (step { ((boot [0xD011]).setV 0 62).setByte 0x300 0xFF with i := 0x300 })
      (fun t => ([61, 62, 63, 0, 5, 6].map fun x => t.display.cell x 0, t.getV VF)) =
      some ([0, 1, 1, 1, 1, 0], 0) := by decide

theorem test_D9_draw_two_planes :
    seen (step { lit ((boot [0xD011]).setByte 0x300 0x80) .two 0 0 with i := 0x300, planeMask := 3 })
      (fun t => (t.display.cell 0 0, t.getV VF)) = some (1, 1) := by decide

theorem test_D19_scd : seen (step (lit (boot [0x00C1]) .one 3 0))
    (fun t => (t.display.cell 3 1, t.display.cell 3 0)) = some (1, 0) := by decide

theorem test_D20_scd_no_wrap : seen (step (lit (boot [0x00C1]) .one 3 31))
    (fun t => (t.display.cell 3 31, t.display.cell 3 0, t.display.cell 3 32)) = some (0, 0, 0) := by decide

theorem test_D22_scu : seen (step { lit (boot [0x00D3]) .two 10 5 with planeMask := 2 })
    (fun t => (t.display.cell 10 2, t.display.cell 10 5)) = some (2, 0) := by decide

theorem test_D25_scr_lost : seen (step (lit (boot [0x00FB]) .one 62 0))
    (fun t => ([62, 63, 64, 66, 2].map fun x => t.display.cell x 0)) = some [0, 0, 0, 0, 0] := by decide

theorem test_D26_scr_hires : seen (step { lit (lit (boot [0x00FB]) .one 124 10) .one 0 10 with hires := true })
    (fun t => (t.display.cell 4 10, t.display.cell 124 10, t.display.cell 0 10)) = some (1, 0, 0) := by decide

theorem test_D27_scl : seen (step (lit (lit (boot [0x00FC]) .one 4 7) .one 2 7))
    (fun t => (t.display.cell 0 7, t.display.cell 2 7, t.display.cell 4 7)) = some (1, 0, 0) := by decide

theorem test_D31_lores : seen (step { lit (boot [0x00FE]) .two 100 50 with hires := true })
    (fun t => (t.hires, t.display.cell 100 50, t.redraw)) = some (false, 0, true) := by decide

theorem test_D29_hires : seen (step (lit (lit (boot [0x00FF]) .one 5 5) .two 5 5))
    (fun t => (t.hires, t.display.cell 5 5, t.planeMask)) = some (true, 0, 1) := by decide

theorem test_D32_plane : seen (step ((boot [0xF301]).setV 3 7)) (fun t => (t.planeMask, t.redraw)) =
    some (3, false) := by decide

/-! ## Keys and timers (vectors K1–K12, T1–T5) -/

theorem test_K3_skp : seen (step { (boot [0xE19E]).setV 1 0x1A with keys := onlyKey 0xA }) (fun t => t.pc) =
    some 0x204 := by decide

/-- K6: a taken key skip lands inside F000 NNNN. -/
theorem test_K6_skp_two : seen (step { boot [0xE09E, 0xF000, 0x1234] with keys := onlyKey 0 }) (fun t => t.pc) =
    some 0x204 := by decide

theorem test_K4_sknp : seen (step ((boot [0xE1A1]).setV 1 5)) (fun t => t.pc) = some 0x204 := by decide

theorem test_K5_sknp : seen (step { (boot [0xE1A1]).setV 1 5 with keys := onlyKey 5 }) (fun t => t.pc) =
    some 0x202 := by decide

theorem test_K9_key_wait : seen (step { boot [0xF30A] with keys := onlyKey 3 })
    (fun t => (t.waiting, t.pc, t.getV 3)) = some (some 3, 0x202, 0) := by decide

theorem test_K10_read_dt : seen (step { boot [0xF507] with dt := 0x3C }) (fun t => (t.getV 5, t.dt)) =
    some (0x3C, 0x3C) := by decide

theorem test_K11_set_dt : seen (step ((boot [0xF015]).setV 0 60)) (fun t => (t.dt, t.st)) = some (60, 0) := by decide

theorem test_K12_set_st : seen (step ((boot [0xF218]).setV 2 1)) (fun t => (t.st, t.dt)) = some (1, 0) := by decide

theorem test_T3_tick : ({ State.reset with dt := 1, st := 5 } : State).tick.dt = 0 ∧
    ({ State.reset with dt := 1, st := 5 } : State).tick.st = 4 := by decide

/-! ## Index, font, BCD, block transfers and the flag bank (vectors I1–I31) -/

theorem test_I1_ld_i : seen (step (boot [0xA300])) (fun t => (t.i, t.pc)) = some (0x300, 0x202) := by decide

theorem test_I3_ld_i_long : seen (step (boot [0xF000, 0xF000])) (fun t => (t.i, t.pc)) = some (0xF000, 0x204) := by
  decide

theorem test_I5_add_i : seen (step { ((boot [0xF01E]).setV 0 1).setV VF 9 with i := 0xFFFF })
    (fun t => (t.i, t.getV VF)) = some (0, 9) := by decide

theorem test_I7_font : seen (step ((boot [0xF029]).setV 0 0x1A)) (fun t => t.i) = some 0x032 := by decide

theorem test_I9_big_font : seen (step ((boot [0xF130]).setV 1 0x0F)) (fun t => t.i) = some 0x0E6 := by decide

theorem test_I10_bcd : seen (step { (boot [0xF233]).setV 2 254 with i := 0x300 })
    (fun t => ([0x2FF, 0x300, 0x301, 0x302, 0x303].map t.byteAt, t.i)) = some ([0, 2, 5, 4, 0], 0x300) := by decide

theorem test_I14_bcd_fault : seen (step { (boot [0xF233]).setV 2 7 with i := 0xFFFE })
    (fun t => (t.haltReason, t.mem == (boot [0xF233]).mem)) =
    some (some (.fault (.outOfBounds .write 0x10000) 0x200), true) := by decide

theorem test_I15_store : seen (step { (((boot [0xF255]).setV 0 1).setV 1 2).setV 2 3 with i := 0x400 })
    (fun t => ([0x400, 0x401, 0x402, 0x403].map t.byteAt, t.i)) = some ([1, 2, 3, 0], 0x400) := by decide

theorem test_I18_store_fault : seen (step { boot [0xFF55] with i := 0xFFF1 }) (fun t => t.haltReason) =
    some (some (.fault (.outOfBounds .write 0x10000) 0x200)) := by decide

theorem test_I19_load :
    seen (step { (boot [0xF265]).setBytes 0x300 [2, 5, 4, 9] with i := 0x300 })
      (fun t => (t.getV 0, t.getV 1, t.getV 2, t.getV 3)) = some (2, 5, 4, 0) := by decide

theorem test_I21_load_fault : seen (step { (boot [0xF165]).setByte 0xFFFF 7 with i := 0xFFFF })
    (fun t => (t.haltReason, t.getV 0)) = some (some (.fault (.outOfBounds .read 0x10000) 0x200), 0) := by decide

theorem test_I23_save : seen (step { ((boot [0x5432]).setV 3 0xAA).setV 4 0xBB with i := 0x500 })
    (fun t => ([0x500, 0x501, 0x502].map t.byteAt, t.i)) = some ([0xAA, 0xBB, 0], 0x500) := by decide

theorem test_I28_save_fault : seen (step { boot [0x5012] with i := 0xFFFF }) (fun t => t.haltReason) =
    some (some (.fault (.outOfBounds .write 0x10000) 0x200)) := by decide

theorem test_I26_load_range : seen (step { (boot [0x5433]).setBytes 0x500 [0xAA, 0xBB, 0xCC] with i := 0x500 })
    (fun t => (t.getV 2, t.getV 3, t.getV 4, t.getV 5)) = some (0, 0xAA, 0xBB, 0) := by decide

theorem test_I27_load_range_VF : seen (step { (boot [0x5EF3]).setBytes 0x500 [1, 2] with i := 0x500 })
    (fun t => (t.getV 14, t.getV VF)) = some (1, 2) := by decide

theorem test_I29_save_flags : seen (step (((boot [0xF175]).setV 0 9).setV 1 8))
    (fun t => (t.getFlag 0, t.getFlag 1, t.getFlag 2)) = some (9, 8, 0) := by decide

theorem test_I31_restore_flags : seen (step ((boot [0xFF85]).setFlag 15 0x42)) (fun t => t.getV VF) =
    some 0x42 := by decide

/-! ## Host operations (vectors H1–H8) -/

/-- H2, and the end of the big font. -/
theorem test_H2_fonts : State.reset.bytesFrom 0 5 = [0xF0, 0x90, 0x90, 0x90, 0xF0] ∧
    State.reset.byteAt 0x50 = 0x3C ∧ State.reset.bytesFrom 0xEE 4 = [0xC0, 0xC0, 0, 0] := by decide

/-- H5: the empty image. -/
theorem test_H5_empty_image : seen (step State.reset) (fun t => (t.haltReason, t.pc)) =
    some (some (.fault (.unknownOpcode 0x0000 0x200) 0x200), 0x202) := by decide

/-- H7: `init` ends a halt and clears memory. -/
theorem test_H7_init : ({ boot [0x6005] with halted := true, haltReason := some .exit } : State).init = State.reset := rfl

/-- The host's placing of an instruction is what the next step runs. -/
theorem test_with_fetch_word : seen (step (State.reset.withFetchWord 16 0x6005)) (fun t => (t.getV 0, t.pc)) =
    some (5, 0x202) := by decide

/-! ## Witnesses: every statement with hypotheses has a case that meets them, each clause at a boundary -/

theorem witness_InitLeavesTheResetValues : (State.reset = State.reset ∨ ∃ s : State, State.reset = s.init) ∧
    (({ boot [0x6005] with halted := true } : State).init = State.reset ∨
      ∃ s : State, ({ boot [0x6005] with halted := true } : State).init = s.init) := ⟨.inl rfl, .inr ⟨_, rfl⟩⟩

theorem witness_InitSetsRegistersAndPlanes : ∃ s : State, s.getV 3 = 7 ∧ s.planeMask = 2 ∧
    (State.reset = State.reset ∨ ∃ u : State, s.init = u.init) :=
  ⟨{ State.reset.setV 3 7 with planeMask := 2 }, by decide, rfl, .inl rfl⟩

theorem witness_InitInstallsTheFonts :
    ({ State.reset with params := { defaultParams with fontSmallBase := 0x110 } } : State).params.wf = true := by
  decide

theorem witness_LoadInstallsTheImage :
    0xFE00 < (List.replicate 0xFE01 (0 : Byte)).length ∧ (List.replicate 0xFE00 (0 : Byte)).length ≤ 0xFE00 := by
  rw [List.length_replicate, List.length_replicate]; decide

/-- A session whose `load` window is closed. -/
def closed : Session := { machine := boot [0x00E0], loadOpen := false }

/-- Ruling U11 and R171: the second of two loads is refused, and so is a load after a step. -/
theorem test_load_once :
    (Session.start defaultParams).run [.load [0x12], .load [0x34]] = .refused .loadNotAllowed ∧
    (Session.start defaultParams).run [.step (onlyKey 0), .load [0x12]] = .refused .loadNotAllowed := ⟨rfl, rfl⟩

/-- R172: after a new `init` the host loads again. -/
theorem test_load_after_init :
    ∃ h, (Session.start defaultParams).run [.load [0x12], .init, .load [0x34]] = .next h ∧
      h.machine.byteAt 0x200 = 0x34 := ⟨_, rfl, by decide⟩

theorem witness_LoadOnlyBetweenInitAndFirstStep :
    (∃ h', (Session.start defaultParams).apply (.step (onlyKey 0)) = .next h') ∧
    (∃ h', (Session.start defaultParams).apply (.load []) = .next h') ∧
    ((Session.start defaultParams).loadOpen = true ∧ ([] : List Byte).length ≤ 0xFE00 ∧
      (List.replicate 0xFE00 (0 : Byte)).length ≤ 0xFE00) ∧
    (HostOp.tick ≠ .init ∧ closed.loadOpen = false ∧ ∃ h', closed.apply .tick = .next h') ∧
    (closed.loadOpen = false ∧ HostOp.init ∉ [HostOp.tick, .ackFrame, .readSurface] ∧
      (∀ ks, HostOp.step ks ∉ [HostOp.tick, .ackFrame, .readSurface]) ∧
      ∃ h', closed.run [.tick, .ackFrame, .readSurface] = .next h') :=
  ⟨⟨_, rfl⟩, ⟨_, rfl⟩, ⟨rfl, by decide, by rw [List.length_replicate]⟩, ⟨by decide, rfl, _, rfl⟩, rfl, by decide,
    by simp, _, rfl⟩

theorem witness_SurfaceShowsTheScreen : 127 < ({ State.reset with hires := true } : State).width ∧
    63 < ({ State.reset with hires := true } : State).height ∧ (lit State.reset .two 63 31).width = 64 ∧
    (State.surface (lit State.reset .two 63 31)).cells.getLast?.map (fun row => row.getLast?) = some (some 2) := by
  decide

theorem witness_HaltedStepDoesNothing : ({ State.reset with halted := true } : State).halted = true := rfl

theorem witness_HaltedUntilInit :
    let h : Session := { machine := { State.reset with halted := true, dt := 1 }, loadOpen := false }
    h.machine.halted = true ∧ HostOp.init ∉ [HostOp.step (onlyKey 0), .tick, .ackFrame] ∧ h.loadOpen = false ∧
      ∃ h', h.run [.step (onlyKey 0), .tick, .ackFrame] = .next h' :=
  ⟨rfl, by decide, rfl, _, rfl⟩

theorem witness_KeyWaitPolls :
    let s : State := { State.reset with waiting := some 0xF }
    let t : State := { s with keys := onlyKey 15 }
    let u : State := { s with keys := onlyKey 0 }
    s.halted = false ∧ s.waiting = some 0xF ∧ (∀ k, s.pressed k = false) ∧
      (t.pressed 15 = true ∧ ∀ j : Nibble, j.toNat < 15 → t.pressed j = false) ∧
      (u.pressed 0 = true ∧ ∀ j : Nibble, j.toNat < 0 → u.pressed j = false) := by decide

theorem witness_StepRunsTheDecodedInstruction :
    Running (bootAt 0xFFFD [0x6005]) ∧
      decode ((bootAt 0xFFFD [0x6005]).bytesFrom 0xFFFD 4) = .ok (.ldImm 0 5, [0, 0]) ∧
      0xFFFD + (encodeBytes (.ldImm 0 5)).length = 0xFFFF ∧
      decode ((bootAt 0xFFFB [0xF000, 0x1234]).bytesFrom 0xFFFB 4) = .ok (.ldILong 0x1234, []) ∧
      0xFFFB + (encodeBytes (.ldILong 0x1234)).length = 0xFFFF :=
  ⟨⟨rfl, rfl⟩, rfl, rfl, rfl, rfl⟩

theorem witness_StepCycleFaults :
    (∀ pc w, Running (bootAt pc [w])) ∧ (bootAt 0xFFFF []).pc = 0xFFFF ∧
    ((bootAt 0xFFFD [0xF000]).fetch16 0xFFFD = 0xF000 ∧ (0xFFFF : Nat) < 0xFFFD + 3) ∧
    ((bootAt 0xFFFC [0xF000]).fetch16 0xFFFC = 0xF000 ∧ (0xFFFC : Nat) + 3 = 0xFFFF) ∧
    ((bootAt 0xFFFE [0x6005]).fetch16 0xFFFE ≠ 0xF000 ∧ (0xFFFE : Nat) + 1 = 0xFFFF) ∧
    ((bootAt 0xFFFD [0x0123]).fetch16 0xFFFD = 0x0123 ∧ ∀ r ∈ opcodeTable, r.hit 0x0123 = false) := by
  refine ⟨fun pc w => ⟨rfl, rfl⟩, ?_⟩
  decide

theorem witness_FetchSeesTheLatestWrite : Running (bootAt 0xFFFB []) ∧
    (bootAt 0xFFFB []).pc.toNat + (encodeBytes (.ldILong 0)).length = 0xFFFF ∧
    (bootAt 0xFFFD []).pc.toNat + (encodeBytes .cls).length = 0xFFFF := ⟨⟨rfl, rfl⟩, rfl, rfl⟩

theorem witness_DecoderIsTheOpcodeTable :
    classify 0xF000 0x1234 = .ok (.ldILong 0x1234) ∧ (rowOf (.scu 0) ∈ opcodeTable ∧ (rowOf (.scu 0)).hit 0x00DF) ∧
    ∀ r ∈ opcodeTable, r.hit 0xF100 = false := ⟨rfl, by decide, by decide⟩

theorem witness_EncodeAfterDecode : decode [0xF0, 0x00, 0xFF, 0xFE, 0x00] = .ok (.ldILong 0xFFFE, [0x00]) ∧
    decode [0x00, 0xDF] = .ok (.scu 15, []) := ⟨rfl, rfl⟩

theorem witness_LookAheadMakesTheRecord :
    (bootAt 0xFFFC [0xF000, 0x1234]).fetch16 0xFFFC = 0xF000 ∧ (bootAt 0xFFFC [0xF000, 0x1234]).fetch16 0xFFFE = 0x1234 ∧
    (bootAt 0xFFFD [0xF000]).fetch16 0xFFFD = 0xF000 ∧ (bootAt 0xFFFE [0x6005]).fetch16 0xFFFE = 0x6005 ∧
    ((bootAt 0xFFFC [0xF000, 0x1234]).lookAhead 0xFFFC).map (·.tag) = some (some (.ldILong 0x1234)) ∧
    ((bootAt 0xFFFE [0x0123]).lookAhead 0xFFFE).map (fun r => (r.length, r.tag)) = some (2, none) := by decide

/-- A state with a full stack, a lit corner pixel and a byte written. -/
def busy : State :=
  { lit (bootAt 0x300 [0x00EE]) .two 63 31 with sp := 16, stack := List.replicate 16 0x202 }

theorem busy_meets_the_invariant : StateInv busy where
  params := by decide
  mem := by decide
  depth := by decide
  count := by decide
  popped := fun k hk => List.getD_eq_default _ _ (by simpa [busy] using hk)
  offscreen := fun x y h => by
    rw [Display.cell_eq_zero]
    intro p
    have hp := Display.dark.pixel_togglePlane p .two x y (63 % 128) (31 % 64) (by decide) (by decide)
    rw [pixel_dark, Bool.false_xor] at hp
    refine hp.trans (decide_eq_false ?_)
    rintro ⟨-, rfl, rfl⟩
    exact h (by decide)
  reason := rfl
  idle := fun h => absurd h (by decide)

theorem witness_StepKeepsTheInvariant : StateInv busy ∧ ∃ t, step busy = .next t :=
  ⟨busy_meets_the_invariant, _, rfl⟩

theorem witness_StepAlwaysAnswers : StateInv busy := busy_meets_the_invariant

theorem witness_SessionsKeepTheInvariant : ({ defaultParams with stackDepth := 17 } : Params).wf = true ∧
    StateInv ({ machine := busy, loadOpen := false } : Session).machine :=
  ⟨by decide, busy_meets_the_invariant⟩

theorem witness_SpecialRegistersHaveTheirWriters : (∃ t, exec (.jp 0x234) (boot []) = .next t) ∧
    (∀ x, Instr.jp 0x234 ≠ .ldDtVx x) ∧ Instr.jp 0x234 ≠ .ret ∧ (∃ t, exec (.ldI 3) (boot []) = .next t) ∧
    (∀ x, Instr.ldI 3 ≠ .plane x) := ⟨⟨_, rfl⟩, by simp, by simp, ⟨_, rfl⟩, by simp⟩

theorem witness_GeneralRegisterFrame : (∃ t, exec (.load 5 3) (boot []) = .next t) ∧ ¬writesReg (.load 5 3) 2 ∧
    ¬writesReg (.load 5 3) 6 ∧ writesReg (.load 5 3) 3 ∧ ¬writesReg (.addReg 0 1) 14 ∧ writesReg (.addReg 0 1) VF := by
  refine ⟨⟨_, rfl⟩, ?_⟩
  simp only [writesReg]
  decide

theorem witness_MemoryFrame : (∃ t, exec (.ldB 0) { boot [] with i := 0x300 } = .next t) ∧
    ((0x2FF : Nat) < 0x300 ∨ 0x300 + storedBytes (.ldB 0) ≤ 0x2FF) ∧
    ((0x303 : Nat) < 0x300 ∨ 0x300 + storedBytes (.ldB 0) ≤ 0x303) := ⟨⟨_, rfl⟩, by decide, by decide⟩

theorem witness_RedrawMarksDisplayInstructions : (∃ t, exec .cls { boot [] with redraw := true } = .next t) ∧
    (∃ t, exec (.drw 0 1 0) { boot [] with i := 0xFFE0 } = .next t) ∧
    (∃ t, exec (.drw 0 1 0) { boot [] with i := 0xFFE1 } = .next t) ∧ (∃ t, exec (.plane 0) (boot []) = .next t) ∧
    Instr.plane 0 ≠ .cls ∧ (∀ x y n, Instr.plane 0 ≠ .drw x y n) :=
  ⟨⟨_, rfl⟩, ⟨_, rfl⟩, ⟨_, rfl⟩, ⟨_, rfl⟩, by simp, by simp⟩

theorem witness_FaultsLeaveNoPartialEffect : (boot []).halted = false ∧
    seen (exec (.ldB 0) { boot [] with i := 0xFFFE }) (fun t => t.halted) = some true ∧
    seen (exec .exit (boot [])) (fun t => t.halted) = some true := by decide

theorem witness_SoundTimerIsNeverRead : (∀ x, Instr.ldVxDt 0 ≠ .ldStVx x) ∧
    ∃ t, exec (.ldVxDt 0) { boot [] with st := 9 } = .next t := ⟨by simp, _, rfl⟩

theorem witness_AdditionSetsCarry : (255 : Nat) = (((boot []).setV 0 255).getV 0).toNat ∧
    (0 : Nat) = (((boot []).setV 0 255).getV 1).toNat ∧
    (1 : Nat) = ((((boot []).setV 0 255).setV 2 1).getV 2).toNat := by decide

theorem witness_SubtractionsSetNoBorrow : (1 : Nat) = (((boot []).setV 0 1).getV 0).toNat ∧
    (0 : Nat) = ((boot []).getV 1).toNat := by decide

theorem witness_ShiftsSetVF : (0x81 : Nat) = (((boot []).setV 0 0x81).getV 0).toNat := by decide

theorem witness_RandomUnderTheMask : (0x0F : Byte).getLsbD 4 = false ∧ (0x0F : Byte).getLsbD 3 = true ∧
    (1 : Reg) ≠ 0 := by decide

theorem witness_OffsetJump : (boot []).params.jumpOffsetReg = .vx ∧
    ({ boot [] with params := { defaultParams with jumpOffsetReg := .v0 } } : State).params.jumpOffsetReg = .v0 :=
  ⟨rfl, rfl⟩

theorem witness_CallPushesOrOverflows : (boot []).stack.length = (boot []).params.stackDepth ∧
    (15 : Nat) < (boot []).params.stackDepth ∧ busy.stack.length = busy.params.stackDepth ∧
    busy.params.stackDepth ≤ busy.sp := by decide

theorem witness_ReturnPopsOrUnderflows : (busy.sp ≤ busy.stack.length ∧ 1 ≤ busy.sp) ∧
    ((boot []).sp ≤ (boot []).stack.length ∧ (boot []).sp = 0) := by decide

theorem witness_ReturnUndoesCall : ∃ s t : State, StateInv s ∧ s.sp < s.params.stackDepth ∧
    exec (.call 0x234) s = .next t := by
  refine ⟨{ busy with sp := 0, stack := List.replicate 16 0 }, _, ?_, by decide, rfl⟩
  have b := busy_meets_the_invariant
  refine ⟨b.params, b.mem, by decide, by decide, fun k _ => ?_, b.offscreen, b.reason, b.idle⟩
  show (List.replicate 16 (0 : Word)).getD k 0 = 0
  rw [List.getD_eq_getElem?_getD, List.getElem?_replicate]
  split <;> rfl

theorem witness_ConditionalSkips : (bootAt 0xFFFF []).getV 0 = 0 ∧ (bootAt 0xFFFF []).pc = 0xFFFF ∧
    ((bootAt 0xFFFC [0xF000]).byteAt 0xFFFC = 0xF0 ∧ (bootAt 0xFFFC [0xF000]).byteAt 0xFFFD = 0 ∧
      (0xFFFF : Nat) < 0xFFFC + 4) ∧
    ((bootAt 0xFFFB [0xF000]).byteAt 0xFFFB = 0xF0 ∧ (0xFFFB : Nat) + 4 ≤ 0xFFFF) ∧
    ((bootAt 0xFFFD [0x6005]).byteAt 0xFFFD = 0x60 ∧ (0xFFFD : Nat) + 2 ≤ 0xFFFF) ∧
    ((bootAt 0xFFFE [0x6005]).byteAt 0xFFFE = 0x60 ∧ (0xFFFF : Nat) < 0xFFFE + 2) := by decide

theorem witness_KeySkips :
    let s : State := { (boot []).setV 1 0x1A with keys := onlyKey 0xA }
    (0xA : Nibble).toNat = (s.getV 1).toNat % 16 ∧ s.pressed 0xA = true ∧ (boot []).pressed 0xA = false ∧
      (0xFFFF : Nat) < (bootAt 0xFFFE []).pc.toNat + 2 ∧ (bootAt 0xFFFD []).pc.toNat + 2 ≤ 0xFFFF := by decide

theorem witness_IndexLoads : Running (bootAt 0xFFFB [0xF000, 0x1234]) ∧
    (bootAt 0xFFFB [0xF000, 0x1234]).byteAt 0xFFFB = 0xF0 ∧ (bootAt 0xFFFB [0xF000, 0x1234]).byteAt 0xFFFC = 0x00 ∧
    (bootAt 0xFFFB [0xF000, 0x1234]).pc.toNat + 4 = 0xFFFF := ⟨⟨rfl, rfl⟩, by decide⟩

theorem witness_FontInstructions : (boot []).params.wf = true := by decide

theorem witness_BcdStoresThreeDigits : (255 : Nat) = (((boot []).setV 0 255).getV 0).toNat ∧
    ({ boot [] with i := 0xFFFD } : State).i.toNat + 2 ≤ 0xFFFF ∧
    0xFFFF < ({ boot [] with i := 0xFFFE } : State).i.toNat + 2 := by decide

theorem witness_RegisterStores :
    (∃ x, Instr.storeRegs 15 = .storeRegs x ∧ (0 : Nat) = 0 ∧ (15 : Nat) = x.toNat) ∧
    (∃ x y, Instr.save 5 3 = .save x y ∧ (3 : Nat) = min x.toNat y.toNat ∧ (2 : Nat) = max x.toNat y.toNat - 3) ∧
    (0xFFF0 : Word).toNat + 15 ≤ 0xFFFF ∧ 0xFFFF < (0xFFFE : Word).toNat + 2 :=
  ⟨⟨15, rfl, rfl, rfl⟩, ⟨5, 3, rfl, rfl, rfl⟩, by decide, by decide⟩

theorem witness_RegisterLoadsFromMemory :
    (∃ x, Instr.loadRegs 0 = .loadRegs x ∧ (0 : Nat) = 0 ∧ (0 : Nat) = x.toNat) ∧
    (∃ x y, Instr.load 0 15 = .load x y ∧ (0 : Nat) = min x.toNat y.toNat ∧ (15 : Nat) = max x.toNat y.toNat - 0) ∧
    (0xFFFF : Word).toNat + 0 ≤ 0xFFFF ∧ 0xFFFF < (0xFFF1 : Word).toNat + 15 :=
  ⟨⟨0, rfl, rfl, rfl⟩, ⟨0, 15, rfl, rfl, rfl⟩, by decide, by decide⟩

theorem witness_LoadAfterSaveRestores :
    ({ boot [] with i := 0xFFFD } : State).i.toNat + storedBytes (.save 5 3) = 0x10000 ∧
    (∃ t, exec (.save 5 3) { boot [] with i := 0xFFFD } = .next t) ∧
    (∀ i ∈ [Instr.load 5 3, Instr.load 3 5], i = .load 5 3 ∨ i = .load 3 5) ∧
    min (5 : Reg).toNat (3 : Reg).toNat ≤ (4 : Reg).toNat ∧ (4 : Reg).toNat ≤ max (5 : Reg).toNat (3 : Reg).toNat :=
  ⟨by decide, ⟨_, rfl⟩, by decide, by decide, by decide⟩

theorem witness_ClearDarkensTheSelectedPlanes :
    (selected (boot []).planeMask .one ∧ 63 < (boot []).width ∧ 31 < (boot []).height) ∧
    ¬selected (boot []).planeMask .two ∧ ¬64 < (boot []).width ∧ ¬32 < (boot []).height := by
  simp only [selected]; decide

theorem witness_ScrollsMoveTheSelectedPlanes :
    (∃ n : Nibble, Instr.scd 15 = .scd n ∧ (0 : Int) = 0 ∧ (15 : Int) = n.toNat) ∧
    (∃ n : Nibble, Instr.scu 15 = .scu n ∧ (0 : Int) = 0 ∧ (-15 : Int) = -n.toNat) ∧
    selected (boot []).planeMask .one ∧ ((0 : Nat) : Int) = (15 : Nat) - (15 : Int) ∧
    ¬(∃ sy : Nat, (sy : Int) = (14 : Nat) - (15 : Int)) := by
  refine ⟨⟨15, rfl, rfl, rfl⟩, ⟨15, rfl, rfl, rfl⟩, rfl, by decide, ?_⟩
  rintro ⟨sy, h⟩
  omega

theorem witness_ResolutionChangesClearEverything :
    ((Instr.lores = .lores ∧ false = false) ∨ (Instr.lores = .hires ∧ false = true)) ∧
    ((Instr.hires = .lores ∧ true = false) ∨ (Instr.hires = .hires ∧ true = true)) := by decide

/-- A sprite row whose last pixel wraps onto a lit pixel, at the last readable byte. -/
def sprite : State := { lit ((boot []).setByte 0xFFFF 0x81) .one 0 0 with i := 0xFFFF, v := (boot []).v.set 0 57 }

theorem witness_DrawInvertsTheSprite :
    ((57 : Nat) = (sprite.getV 0).toNat ∧ (0 : Nat) = (sprite.getV 1).toNat ∧ sprite.i.toNat + 1 - 1 ≤ 0xFFFF) ∧
    selected sprite.planeMask .one ∧ spriteCovers sprite 1 57 0 57 0 ∧
    (spriteCovers sprite 1 57 0 0 0 ∧ sprite.display.pixel .one 0 0 = true) ∧
    0xFFFF < sprite.i.toNat + 2 - 1 ∧ ({ sprite with i := 0xFFE0 } : State).i.toNat + 32 - 1 ≤ 0xFFFF := by
  refine ⟨by decide, rfl, ⟨0, 0, by decide⟩, ⟨⟨0, 7, by decide⟩, by decide⟩, by decide, by decide⟩

theorem witness_DrawTwiceRestores : (0 : Reg) ≠ VF ∧ (1 : Reg) ≠ VF ∧ (57 : Nat) = (sprite.getV 0).toNat ∧
    (0 : Nat) = (sprite.getV 1).toNat ∧ sprite.i.toNat + (if (1 : Nibble) = 0 then 32 else (1 : Nibble).toNat) ≤ 0x10000 ∧
    ({ sprite with i := 0xFFE0 } : State).i.toNat + (if (0 : Nibble) = 0 then 32 else (0 : Nibble).toNat) ≤ 0x10000 := by
  decide

theorem witness_UnselectedPlanesAreUntouched : (∃ t, exec (.drw 0 1 1) sprite = .next t) ∧
    Instr.drw 0 1 1 ≠ .lores ∧ Instr.drw 0 1 1 ≠ .hires ∧ PlaneId.two ∉ planes sprite.planeMask :=
  ⟨⟨_, rfl⟩, by decide, by decide, by decide⟩

end Sys2Proof.Tests
end

namespace Sys2Proof.Machine

variable {s t : State} {i : Instr}

/-! ## Which effects halt -/

@[simp] theorem State.setBytes_halted (s : State) (a : Nat) (bs : List Byte) : (s.setBytes a bs).halted = s.halted := by
  rw [State.setBytes_only]

@[simp] theorem State.setRegs_halted (s : State) (k : Nat) (bs : List Byte) : (s.setRegs k bs).halted = s.halted := by
  rw [State.setRegs_only]

@[simp] theorem State.setFlags_halted (s : State) (k : Nat) (bs : List Byte) :
    (s.setFlags k bs).halted = s.halted := by
  rw [State.setFlags_only]

/-- Apart from a fault, no instruction but 00FD enters or leaves the halt (R29, R96). -/
theorem Effect.halted_eq (h : Effect i s t) (hi : i ≠ .exit) : t.halted = s.halted := by
  cases i
  case exit => exact absurd rfl hi
  case lores | hires => subst h; rfl
  case plane | ldVxK | ldDtVx | ldStVx | rnd => subst h; rfl
  case scd | scu | cls | scr | scl => obtain ⟨_, rfl⟩ := h; rfl
  case ret => obtain ⟨-, _, -, rfl⟩ := h; rfl
  case call => obtain ⟨-, -, rfl⟩ := h; rfl
  case jp | jpOffset | seImm | sneImm | seReg | sneReg | skp | sknp => obtain ⟨_, rfl⟩ := h; rfl
  case ldImm | addImm | ldReg | ldVxDt | orReg | andReg | xorReg => obtain ⟨_, rfl⟩ := h; rfl
  case addReg | sub | shr | subn | shl => obtain ⟨_, _, rfl⟩ := h; rfl
  case ldI | ldILong | addI | ldF | ldHf => obtain ⟨_, rfl⟩ := h; rfl
  case save | storeRegs | ldB => obtain ⟨-, rfl⟩ := h; exact State.setBytes_halted ..
  case load | loadRegs => obtain ⟨-, rfl⟩ := h; exact State.setRegs_halted ..
  case restoreFlags => subst h; exact State.setRegs_halted ..
  case saveFlags => subst h; exact State.setFlags_halted ..
  case drw => obtain ⟨-, rfl⟩ := h; rfl

/-- The operation that takes a fault, in the terms of the statements (R9, R152). -/
theorem State.raise_eq_haltedBy (s : State) (k : FaultKind) (a : Word) : s.raise k a = haltedBy s k a := rfl

/-- Settles O28: an answered instruction took a fault or had its effect, and the one effect that halts is 00FD's. -/
theorem faultsLeaveNoPartialEffect : Obligations.FaultsLeaveNoPartialEffect := by
  unfold Obligations.FaultsLeaveNoPartialEffect
  intro i s t hrun hexec hhalt
  rcases exec_next hexec with ⟨k, hfault⟩ | heffect
  · exact .inr ⟨k, hfault.trans (s.raise_eq_haltedBy k s.fetchedFrom)⟩
  · by_cases hi : i = .exit
    · subst hi
      exact .inl ⟨rfl, heffect⟩
    · have hkept : t.halted = s.halted := heffect.halted_eq hi
      rw [hrun, hhalt] at hkept
      cases hkept

end Sys2Proof.Machine

namespace Sys2Proof.Machine

variable {s t : State} {i : Instr}

/-! ## Pixels outside the screen stay dark (R32) -/

/-- No pixel outside the w × h screen is lit. -/
def Display.DarkOutside (d : Display) (w h : Nat) : Prop := ∀ p x y, ¬(x < w ∧ y < h) → d.pixel p x y = false

/-- Outside the screen, Clear only turns pixels off (R114). -/
theorem Display.DarkOutside.clear {d : Display} {w h : Nat} (hd : d.DarkOutside w h) (hw : w ≤ 128) (m : BitVec 2) :
    (d.clear w h m).DarkOutside w h := by
  intro p x y hout
  rw [Display.pixel_clear _ _ _ _ _ _ _ hw, hd p x y hout, Bool.false_and]

/-- Outside the screen, Shift leaves every pixel as it was (R116). -/
theorem Display.DarkOutside.shift {d : Display} {w h : Nat} (hd : d.DarkOutside w h) (hw : w ≤ 128) (hh : h ≤ 64)
    (m : BitVec 2) (dx dy : Int) : (d.shift w h m dx dy).DarkOutside w h := by
  intro p x y hout
  rw [Display.pixel_shift _ _ _ _ _ _ _ _ _ hw hh, if_neg fun hin => hout hin.2]
  exact hd p x y hout

/-- Every toggle lands on the screen, since its position is wrapped (R112). -/
theorem toggleTarget_on_screen {w h : Nat} (hw : 0 < w) (hh : 0 < h) {ts : List (PlaneId × Nat × Nat)} {p : PlaneId}
    {x y : Nat} (hmem : (p, x, y) ∈ ts.map (toggleTarget w h)) : x < w ∧ y < h := by
  obtain ⟨u, -, e⟩ := List.mem_map.mp hmem
  cases e
  exact ⟨Nat.mod_lt _ hw, Nat.mod_lt _ hh⟩

/-- A draw inverts pixels of the screen only (R119). -/
theorem Display.DarkOutside.drawn (hd : s.display.DarkOutside s.width s.height) (x y : Reg) (n : Nibble) :
    (s.drawn x y n).1.DarkOutside s.width s.height := by
  intro p a b hout
  rw [(s.drawn_spec x y n).1, hd p a b hout,
    decide_eq_false fun hmem => hout (toggleTarget_on_screen s.width_le.1 s.height_le.1 hmem)]
  rfl

/-! ## What a fetch leaves -/

/-- A fetch that gives an instruction has moved `pc` and nothing else (R82). -/
theorem State.fetchAdvance_ok (h : s.fetchAdvance = .ok (i, t)) : ∃ w, t = s.setPc w := by
  rcases s.fetchAdvance_cases _ _ rfl rfl with ⟨-, e⟩ | ⟨-, -, e⟩ | ⟨-, -, e⟩ | ⟨-, -, e⟩ | ⟨-, j, -, e⟩ <;>
    rw [e] at h <;> cases h
  exact ⟨_, rfl⟩

/-- A fetch that faults has at most moved `pc`, before it took the fault (R82, R83). -/
theorem State.fetchAdvance_error (h : s.fetchAdvance = .error t) : ∃ w k, t = (s.setPc w).raise k s.pc := by
  rcases s.fetchAdvance_cases _ _ rfl rfl with ⟨-, e⟩ | ⟨-, -, e⟩ | ⟨-, -, e⟩ | ⟨-, -, e⟩ | ⟨-, j, -, e⟩ <;>
    rw [e] at h <;> cases h
  exacts [⟨s.pc, _, rfl⟩, ⟨s.pc, _, rfl⟩, ⟨s.pc, _, rfl⟩, ⟨_, _, rfl⟩]

end Sys2Proof.Machine

namespace Sys2Proof

open Sys2Proof.Machine

variable {s t : State} {i : Instr}

/-! ## The updates that keep the invariant -/

/-- R32 by planes: a cell is 0 when neither of its pixels is lit. -/
theorem StateInv.darkOutside (hs : StateInv s) : s.display.DarkOutside s.width s.height :=
  fun p x y hout => (Display.cell_eq_zero _ x y).mp (hs.offscreen x y hout) p

theorem StateInv.present (hs : StateInv s) {d : Display} (hd : d.DarkOutside s.width s.height) :
    StateInv (s.present d) :=
  { hs with offscreen := fun x y hout => (d.cell_eq_zero x y).mpr fun p => hd p x y hout }

theorem StateInv.scroll (hs : StateInv s) (dx dy : Int) : StateInv (s.scroll dx dy) :=
  hs.present (hs.darkOutside.shift s.width_le.2 s.height_le.2 _ _ _)

theorem StateInv.setResolution (hs : StateInv s) (b : Bool) : StateInv (s.setResolution b) :=
  { hs with offscreen := fun x y _ => (Display.cell_eq_zero _ x y).mpr fun p => pixel_dark p x y }

theorem StateInv.setBytes (hs : StateInv s) {a : Nat} {bs : List Byte} (hfit : a + bs.length ≤ maxAddr + 1) :
    StateInv (s.setBytes a bs) := by
  rw [State.setBytes_only]
  exact { hs with mem := s.wf_setBytes a bs hfit hs.mem }

theorem StateInv.setRegs (hs : StateInv s) (k : Nat) (bs : List Byte) : StateInv (s.setRegs k bs) := by
  rw [State.setRegs_only]
  exact { hs with }

theorem StateInv.setFlags (hs : StateInv s) (k : Nat) (bs : List Byte) : StateInv (s.setFlags k bs) := by
  rw [State.setFlags_only]
  exact { hs with }

/-- A push fills the slot at `sp`, which is then below the count (R89). -/
theorem StateInv.push (hs : StateInv s) (hroom : s.sp < s.params.stackDepth) (w p : Word) :
    StateInv { s with stack := s.stack.set s.sp w, sp := s.sp + 1, pc := p } :=
  { hs with
    depth := List.length_set.trans hs.depth
    count := hroom
    popped := fun k hk => by
      rw [List.getD_eq_getElem?_getD, List.getElem?_set_ne (by simp only at hk; omega), ← List.getD_eq_getElem?_getD]
      exact hs.popped k (Nat.le_of_succ_le hk) }

/-- A pop clears the slot it frees (R21, R87). -/
theorem StateInv.pop (hs : StateInv s) (p : Word) :
    StateInv { s with stack := s.stack.set (s.sp - 1) 0, sp := s.sp - 1, pc := p } :=
  { hs with
    depth := List.length_set.trans hs.depth
    count := (Nat.sub_le _ _).trans hs.count
    popped := fun k hk => by
      rw [List.getD_eq_getElem?_getD]
      rcases eq_or_ne (s.sp - 1) k with rfl | hne
      · rw [List.getElem?_set_self']
        cases s.stack[s.sp - 1]? <;> rfl
      · rw [List.getElem?_set_ne hne, ← List.getD_eq_getElem?_getD]
        exact hs.popped k (by simp only at hk; omega) }

/-- A halt is entered by an engine that waits for no key (R152). -/
theorem StateInv.raise (hs : StateInv s) (hidle : s.waiting = none) (k : FaultKind) (a : Word) :
    StateInv (s.raise k a) :=
  { hs with reason := rfl, idle := fun _ => hidle }

theorem StateInv.halt (hs : StateInv s) (hidle : s.waiting = none) : StateInv s.halt :=
  { hs with reason := rfl, idle := fun _ => hidle }

/-- A poll ends the wait or leaves the state as it was (R81). -/
theorem StateInv.pollKeys (hs : StateInv s) (r : Reg) : StateInv (s.pollKeys r) := by
  unfold State.pollKeys
  split
  · exact { hs with idle := fun _ => rfl }
  · exact hs

/-! ## Instructions and steps -/

/-- An instruction that a Running engine runs keeps the invariant. -/
theorem StateInv.of_exec (hs : StateInv s) (hrun : Running s) (h : exec i s = .next t) : StateInv t := by
  obtain ⟨hlive, hidle⟩ := hrun
  rcases exec_next h with ⟨k, rfl⟩ | heffect
  · exact hs.raise hidle k s.fetchedFrom
  cases i
  case cls => cases h; exact hs.present (hs.darkOutside.clear s.width_le.2 _)
  case scd | scu | scr | scl => cases h; exact hs.scroll _ _
  case drw x y n =>
    obtain ⟨-, rfl⟩ := heffect
    exact { hs.present (hs.darkOutside.drawn x y n) with }
  case lores | hires => subst heffect; exact hs.setResolution _
  case ret => obtain ⟨-, w, -, rfl⟩ := heffect; exact hs.pop w
  case call => obtain ⟨hroom, -, rfl⟩ := heffect; exact hs.push hroom _ _
  case exit => subst heffect; exact hs.halt hidle
  case ldVxK => subst heffect; exact { hs with idle := fun hhalt => absurd (hlive.symm.trans hhalt) nofun }
  case save | storeRegs =>
    obtain ⟨hbound, rfl⟩ := heffect
    exact hs.setBytes (by rw [State.length_regsFrom]; exact Nat.succ_le_succ hbound)
  case ldB => obtain ⟨hbound, rfl⟩ := heffect; exact hs.setBytes (Nat.succ_le_succ hbound)
  case load | loadRegs => obtain ⟨-, rfl⟩ := heffect; exact hs.setRegs _ _
  case restoreFlags => subst heffect; exact hs.setRegs _ _
  case saveFlags => subst heffect; exact hs.setFlags _ _
  case addReg | sub | shr | subn | shl => obtain ⟨_, _, rfl⟩ := heffect; exact { hs with }
  case rnd | plane | ldDtVx | ldStVx => subst heffect; exact { hs with }
  all_goals obtain ⟨_, rfl⟩ := heffect; exact { hs with }

/-- Settles O21: the halted step changes nothing, a poll and a fetch keep the invariant, and so does every
instruction. -/
theorem stepKeepsTheInvariant : Obligations.StepKeepsTheInvariant := by
  unfold Obligations.StepKeepsTheInvariant
  intro s t hs h
  rcases step_cases s with ⟨-, e⟩ | ⟨-, r, -, e⟩ | ⟨hlive, hidle, ⟨i, u, hfetch, e⟩ | ⟨u, hfetch, e⟩⟩ <;> rw [e] at h
  · cases h; exact hs
  · cases h; exact hs.pollKeys r
  · obtain ⟨w, rfl⟩ := State.fetchAdvance_ok hfetch
    exact StateInv.of_exec (s := s.setPc w) { hs with } ⟨hlive, hidle⟩ h
  · cases h
    obtain ⟨w, k, rfl⟩ := State.fetchAdvance_error hfetch
    exact StateInv.raise (s := s.setPc w) { hs with } hidle k s.pc

end Sys2Proof

namespace Sys2Proof.Machine

variable {s t : State} {i : Instr}

/-! ## What an effect leaves unchanged -/

/-- The eight display instructions (R33). -/
def mutatesDisplay : Instr → Bool
  | .cls | .scd _ | .scu _ | .scr | .scl | .lores | .hires | .drw _ _ _ => true
  | _ => false

/-- What an instruction leaves unchanged, field by field: each holds what it held unless the instruction is one of its
writers (R17, R20, R22-R27, R30, R33). -/
structure Frame (i : Instr) (s t : State) : Prop where
  index : (∀ n, i ≠ .ldI n) → (∀ n, i ≠ .ldILong n) → (∀ x, i ≠ .addI x) → (∀ x, i ≠ .ldF x) → (∀ x, i ≠ .ldHf x) →
    t.i = s.i
  stack : i ≠ .ret → (∀ n, i ≠ .call n) → t.stack = s.stack ∧ t.sp = s.sp
  dt : (∀ x, i ≠ .ldDtVx x) → t.dt = s.dt
  st : (∀ x, i ≠ .ldStVx x) → t.st = s.st
  flags : (∀ x, i ≠ .saveFlags x) → t.flags = s.flags
  planeMask : (∀ x, i ≠ .plane x) → t.planeMask = s.planeMask
  hires : i ≠ .lores → i ≠ .hires → t.hires = s.hires
  waiting : (∀ x, i ≠ .ldVxK x) → t.waiting = s.waiting
  params : t.params = s.params
  keys : t.keys = s.keys
  draws : (∀ x nn, i ≠ .rnd x nn) → t.draws = s.draws
  screen : mutatesDisplay i = false → t.display = s.display ∧ t.redraw = s.redraw

/-- A fault changes nothing but the halt (R152). -/
theorem State.raise_frame (i : Instr) (s : State) (k : FaultKind) (a : Word) : Frame i s (s.raise k a) := by
  constructor <;> simp

/-- Every effect keeps the frame of its instruction. -/
theorem Effect.frame (h : Effect i s t) : Frame i s t := by
  cases i
  case' ret => obtain ⟨-, _, -, rfl⟩ := h
  case' call => obtain ⟨-, -, rfl⟩ := h
  case' exit | lores | hires => subst h
  case' plane | ldVxK | ldDtVx | ldStVx | rnd => subst h
  case' drw => obtain ⟨-, rfl⟩ := h
  case' scd | scu | cls | scr | scl => obtain ⟨_, rfl⟩ := h
  case' jp | jpOffset | seImm | sneImm | seReg | sneReg | skp | sknp => obtain ⟨_, rfl⟩ := h
  case' ldImm | addImm | ldReg | ldVxDt | orReg | andReg | xorReg => obtain ⟨_, rfl⟩ := h
  case' addReg | sub | shr | subn | shl => obtain ⟨_, _, rfl⟩ := h; rw [State.setVFThen_only]
  case' ldI | ldILong | addI | ldF | ldHf => obtain ⟨_, rfl⟩ := h
  case' save | storeRegs | ldB => obtain ⟨-, rfl⟩ := h; rw [State.setBytes_only]
  case' load | loadRegs => obtain ⟨-, rfl⟩ := h; rw [State.setRegs_only]
  case' restoreFlags => subst h; rw [State.setRegs_only]
  case' saveFlags => subst h; rw [State.setFlags_only]
  all_goals constructor <;> simp [mutatesDisplay]

/-- An answered instruction keeps its frame, whether it had its effect or took a fault. -/
theorem exec_frame (h : exec i s = .next t) : Frame i s t := by
  rcases exec_next h with ⟨k, rfl⟩ | heffect
  · exact s.raise_frame i k _
  · exact heffect.frame

/-- Settles O24: the frame of an answered instruction, its fields put together. -/
theorem specialRegistersHaveTheirWriters : Obligations.SpecialRegistersHaveTheirWriters := by
  unfold Obligations.SpecialRegistersHaveTheirWriters
  intro i s t h
  have f := exec_frame h
  exact ⟨f.index, f.stack, f.dt, f.st, f.flags, f.planeMask, f.hires, f.waiting, f.params, f.keys, f.draws⟩

/-! ## The display -/

/-- A display instruction that has its effect sets `redraw` (R33). -/
theorem Effect.redraw (h : Effect i s t) (hi : mutatesDisplay i = true) : t.redraw = true := by
  cases i
  case scd | scu | cls | scr | scl => obtain ⟨_, rfl⟩ := h; rfl
  case lores | hires => subst h; rfl
  case drw => obtain ⟨-, rfl⟩ := h; rfl
  all_goals cases hi

/-- No instruction clears `redraw` (R163). -/
theorem exec_keeps_redraw (h : exec i s = .next t) (hs : s.redraw = true) : t.redraw = true := by
  cases hi : mutatesDisplay i
  · rw [((exec_frame h).screen hi).2, hs]
  · rcases exec_next h with ⟨k, rfl⟩ | heffect
    · exact hs
    · exact heffect.redraw hi

/-- Settles O27: DXYN alone of the eight can fault, and the fault changes nothing but the halt. -/
theorem redrawMarksDisplayInstructions : Obligations.RedrawMarksDisplayInstructions := by
  unfold Obligations.RedrawMarksDisplayInstructions
  intro i s t h
  refine ⟨exec_keeps_redraw h, ?_, ?_, ?_⟩
  · rintro (rfl | ⟨n, rfl⟩ | ⟨n, rfl⟩ | rfl | rfl | rfl | rfl) <;> cases h <;> rfl
  · rintro ⟨x, y, n, rfl⟩
    rcases exec_next h with ⟨k, rfl⟩ | heffect
    · exact .inr ⟨rfl, k, rfl⟩
    · exact .inl (heffect.redraw rfl)
  · intro hcls hscd hscu hscr hscl hlores hhires hdrw
    refine (exec_frame h).screen ?_
    cases i
    case cls => exact absurd rfl hcls
    case scd n => exact absurd rfl (hscd n)
    case scu n => exact absurd rfl (hscu n)
    case scr => exact absurd rfl hscr
    case scl => exact absurd rfl hscl
    case lores => exact absurd rfl hlores
    case hires => exact absurd rfl hhires
    case drw x y n => exact absurd rfl (hdrw x y n)
    all_goals rfl

/-! ## General registers -/

/-- A register outside the `n + 1` registers from `k` upward that are written holds what it held. -/
theorem State.getV_setRegs_outside (s : State) {k n : Nat} {bs : List Byte} (hlen : bs.length = n + 1)
    (hfit : k + n < 16) {r : Reg} (hr : r.toNat < k ∨ k + n < r.toNat) : (s.setRegs k bs).getV r = s.getV r := by
  rw [State.getV_setRegs _ _ _ (by omega)]
  split
  · exact List.getD_eq_default _ _ (by omega)
  · rfl

/-- An effect leaves every register but its instruction's destinations and flag (R15, R16). -/
theorem Effect.getV_eq (h : Effect i s t) {r : Reg} (hr : ¬writesReg i r) : t.getV r = s.getV r := by
  cases i
  case ldImm | addImm | ldReg | ldVxDt | orReg | andReg | xorReg =>
    obtain ⟨b, rfl⟩ := h
    exact (s.getV_setV _ r b).trans (if_neg hr)
  case rnd => subst h; exact (State.getV_setV _ _ r _).trans (if_neg hr)
  case drw => obtain ⟨-, rfl⟩ := h; exact (State.getV_setV _ _ r _).trans (if_neg hr)
  case addReg | sub | shr | subn | shl =>
    obtain ⟨f, b, rfl⟩ := h
    obtain ⟨hx, hflag⟩ := not_or.mp hr
    rw [State.getV_setVFThen, if_neg hx, if_neg hflag]
  case load x y =>
    obtain ⟨-, rfl⟩ := h
    refine s.getV_setRegs_outside (s.length_bytesFrom _ _) (range_fits x y) ?_
    simp only [writesReg] at hr
    simp only [rangeLo, rangeSpan]
    omega
  case loadRegs x =>
    obtain ⟨-, rfl⟩ := h
    exact s.getV_setRegs_outside (s.length_bytesFrom _ _) (by omega) (.inr (by simpa [writesReg] using hr))
  case restoreFlags x =>
    subst h
    exact s.getV_setRegs_outside (s.length_flagsFrom _ _) (by omega) (.inr (by simpa [writesReg] using hr))
  case save | storeRegs | ldB => obtain ⟨-, rfl⟩ := h; rw [State.setBytes_only]; rfl
  case saveFlags => subst h; rw [State.setFlags_only]; rfl
  case ret => obtain ⟨-, _, -, rfl⟩ := h; rfl
  case call => obtain ⟨-, -, rfl⟩ := h; rfl
  case lores | hires | exit | plane | ldVxK | ldDtVx | ldStVx => subst h; rfl
  all_goals obtain ⟨_, rfl⟩ := h; rfl

/-- Settles O25: a fault changes no register, and an effect only those it may write. -/
theorem generalRegisterFrame : Obligations.GeneralRegisterFrame := by
  unfold Obligations.GeneralRegisterFrame
  intro i s t r h hr
  rcases exec_next h with ⟨k, rfl⟩ | heffect
  · rfl
  · exact heffect.getV_eq hr

end Sys2Proof.Machine

namespace Sys2Proof.Machine

variable {s : State} {i : Instr}

/-! ## ST is never read (R23) -/

/-- An answer with ST replaced in its next state. -/
def withSt (b : Byte) : Result → Result
  | .next t => .next (t.setSt b)
  | .fault r => .fault r
  | .refused r => .refused r

/-- A check does not read ST, so it passes the replacement on to the rest of the rule. -/
theorem State.checkBound_setSt {b : Byte} {k : AccessKind} {a : Nat} {rest rest' : Result} (h : rest' = withSt b rest) :
    (s.setSt b).checkBound k a rest' = withSt b (s.checkBound k a rest) := by
  subst h
  unfold State.checkBound
  split <;> rfl

theorem State.advance_setSt (b : Byte) (n : Nat) : (s.setSt b).advance n = withSt b (s.advance n) :=
  State.checkBound_setSt rfl

theorem State.skipIf_setSt (b : Byte) (c : Bool) : (s.setSt b).skipIf c = withSt b (s.skipIf c) := by
  cases c
  · rfl
  · exact State.checkBound_setSt (State.advance_setSt b _)

theorem State.skipTwoIf_setSt (b : Byte) (c : Bool) : (s.setSt b).skipTwoIf c = withSt b (s.skipTwoIf c) := by
  cases c
  · rfl
  · exact State.advance_setSt b 2

theorem State.push_setSt (b : Byte) (w : Word) : (s.setSt b).push w = (s.push w).map fun u => u.setSt b := by
  rcases s.push_cases w with ⟨hroom, e⟩ | ⟨hfull, e⟩ <;> rw [e]
  · exact if_pos hroom
  · exact if_neg (Nat.not_lt.mpr hfull)

theorem State.pop_setSt (b : Byte) : (s.setSt b).pop = s.pop.map fun p => (p.1, p.2.setSt b) := by
  simp only [State.pop, State.setSt_stack, State.setSt_sp]
  cases s.stack[s.sp - 1]? <;> rfl

theorem execCall_setSt (b : Byte) (nnn : Addr12) : execCall nnn (s.setSt b) = withSt b (execCall nnn s) := by
  unfold execCall
  rw [State.push_setSt, State.setSt_sp, State.setSt_params, State.setSt_pc]
  split
  · cases s.push s.pc <;> rfl
  · rfl

theorem execRet_setSt (b : Byte) : execRet (s.setSt b) = withSt b (execRet s) := by
  unfold execRet
  rw [State.pop_setSt, State.setSt_sp]
  split
  · cases s.pop <;> rfl
  · rfl

theorem State.setBytes_setSt (b : Byte) (a : Nat) (bs : List Byte) :
    (s.setSt b).setBytes a bs = (s.setBytes a bs).setSt b := by
  induction bs generalizing s a with
  | nil => rfl
  | cons c bs ih => exact ih (s := s.setByte a c) (a + 1)

theorem State.setRegs_setSt (b : Byte) (k : Nat) (bs : List Byte) :
    (s.setSt b).setRegs k bs = (s.setRegs k bs).setSt b := by
  induction bs generalizing s k with
  | nil => rfl
  | cons c bs ih => exact ih (s := s.setV (BitVec.ofNat 4 k) c) (k + 1)

theorem State.setFlags_setSt (b : Byte) (k : Nat) (bs : List Byte) :
    (s.setSt b).setFlags k bs = (s.setFlags k bs).setSt b := by
  induction bs generalizing s k with
  | nil => rfl
  | cons c bs ih => exact ih (s := s.setFlag (BitVec.ofNat 4 k) c) (k + 1)

theorem State.regsFrom_setSt (b : Byte) (k n : Nat) : (s.setSt b).regsFrom k n = s.regsFrom k n := by
  induction n generalizing k with
  | zero => rfl
  | succ n ih => exact congrArg (_ :: ·) (ih (k + 1))

theorem State.flagsFrom_setSt (b : Byte) (k n : Nat) : (s.setSt b).flagsFrom k n = s.flagsFrom k n := by
  induction n generalizing k with
  | zero => rfl
  | succ n ih => exact congrArg (_ :: ·) (ih (k + 1))

theorem State.bytesFrom_setSt (b : Byte) (a n : Nat) : (s.setSt b).bytesFrom a n = s.bytesFrom a n := by
  induction n generalizing a with
  | zero => rfl
  | succ n ih => exact congrArg (_ :: ·) (ih (a + 1))

theorem State.storeRange_setSt (b : Byte) (k n : Nat) : (s.setSt b).storeRange k n = withSt b (s.storeRange k n) := by
  rw [State.storeRange, State.regsFrom_setSt, State.setBytes_setSt]
  exact State.checkBound_setSt rfl

theorem State.loadRange_setSt (b : Byte) (k n : Nat) : (s.setSt b).loadRange k n = withSt b (s.loadRange k n) := by
  rw [State.loadRange, State.bytesFrom_setSt, State.setRegs_setSt]
  exact State.checkBound_setSt rfl

theorem execLdB_setSt (b : Byte) (x : Reg) : execLdB x (s.setSt b) = withSt b (execLdB x s) := by
  rw [execLdB, State.setBytes_setSt]
  exact State.checkBound_setSt rfl

theorem execSaveFlags_setSt (b : Byte) (x : Reg) : execSaveFlags x (s.setSt b) = withSt b (execSaveFlags x s) := by
  rw [execSaveFlags, State.regsFrom_setSt, State.setFlags_setSt]
  rfl

theorem execRestoreFlags_setSt (b : Byte) (x : Reg) :
    execRestoreFlags x (s.setSt b) = withSt b (execRestoreFlags x s) := by
  rw [execRestoreFlags, State.flagsFrom_setSt, State.setRegs_setSt]
  rfl

/-- With another ST, every instruction but FX18 answers what it answered, with that ST: by the rules above for the
operations that check, loop or use the stack, and by unfolding for the others. -/
theorem exec_setSt (b : Byte) (hi : ∀ x, i ≠ .ldStVx x) : exec i (s.setSt b) = withSt b (exec i s) := by
  cases i
  case ldStVx x => exact absurd rfl (hi x)
  case ret => exact execRet_setSt b
  case call => exact execCall_setSt b _
  case seImm | sneImm | seReg | sneReg => exact State.skipIf_setSt b _
  case skp | sknp => exact State.skipTwoIf_setSt b _
  case save | storeRegs => exact State.storeRange_setSt b _ _
  case load | loadRegs => exact State.loadRange_setSt b _ _
  case ldB => exact execLdB_setSt b _
  case saveFlags => exact execSaveFlags_setSt b _
  case restoreFlags => exact execRestoreFlags_setSt b _
  case drw => exact State.checkBound_setSt rfl
  all_goals rfl

/-- Settles O29: an answered next state is answered again with ST replaced. -/
theorem soundTimerIsNeverRead : Obligations.SoundTimerIsNeverRead := by
  unfold Obligations.SoundTimerIsNeverRead
  intro i s t b hi h
  calc exec i (s.setSt b)
      _ = withSt b (exec i s) := exec_setSt b hi
      _ = .next (t.setSt b) := by rw [h, withSt]

/-! ## Reset -/

/-- Reset is an `init` too: the one under the default parameters (R167). -/
theorem eq_initial_of_reset_or_init {t : State} (h : t = State.reset ∨ ∃ s : State, t = s.init) :
    ∃ p keys draws, t = State.initial p keys draws := by
  rcases h with rfl | ⟨s, rfl⟩
  · exact ⟨_, _, _, rfl⟩
  · exact ⟨_, _, _, rfl⟩

/-- Settles O1: every field of the initial state is at its reset value. -/
theorem initLeavesTheResetValues : Obligations.InitLeavesTheResetValues := by
  unfold Obligations.InitLeavesTheResetValues
  intro t h
  obtain ⟨p, keys, draws, rfl⟩ := eq_initial_of_reset_or_init h
  have hstack : ∀ k, (State.initial p keys draws).stack.getD k 0 = 0 := by
    intro k
    rw [List.getD_eq_getElem?_getD]
    exact List.getElem?_getD_replicate_default_eq ..
  have hflags : ∀ r, (State.initial p keys draws).getFlag r = 0 := by
    intro r
    exact Vector.getElem_replicate r.isLt
  have hdark : ∀ x y, (State.initial p keys draws).display.cell x y = 0 :=
    fun x y => (Display.cell_eq_zero _ x y).mpr fun q => pixel_dark q x y
  exact ⟨rfl, rfl, rfl, hstack, List.length_replicate, rfl, rfl, hflags, hdark, rfl, rfl, rfl, rfl, rfl⟩

/-- Settles O2. Every V register is 0, the mask is plane 1's (D6) and the resolution is low. -/
theorem initSetsRegistersAndPlanes : Obligations.InitSetsRegistersAndPlanes := by
  unfold Obligations.InitSetsRegistersAndPlanes
  intro t h
  obtain ⟨p, keys, draws, rfl⟩ := eq_initial_of_reset_or_init h
  exact ⟨fun r => Vector.getElem_replicate r.isLt, rfl, rfl⟩

end Sys2Proof.Machine

namespace Sys2Proof.Machine

variable {s t : State} {i : Instr} {a : Nat} {bs : List Byte}

/-! ## Bytes stored and read again (R48, R49) -/

/-- A byte outside the range that is written reads as before (R49). -/
theorem State.byteAt_setBytes_outside {c : Nat} (hc : c < a ∨ a + bs.length ≤ c) :
    (s.setBytes a bs).byteAt c = s.byteAt c := by
  rw [State.byteAt_setBytes]
  split
  · exact List.getD_eq_default _ _ (by omega)
  · rfl

/-- The k-th byte of the range that is written reads as the one stored there (R48). -/
theorem State.byteAt_setBytes_inside {k : Nat} (hk : k < bs.length) : (s.setBytes a bs).byteAt (a + k) = bs[k] := by
  rw [State.byteAt_setBytes, if_pos (Nat.le_add_right a k), Nat.add_sub_cancel_left]
  exact List.getD_eq_getElem _ _ hk

/-- A range that is written is read back whole (R48, R49). -/
theorem State.bytesFrom_setBytes : (s.setBytes a bs).bytesFrom a bs.length = bs := by
  refine List.ext_getElem (State.length_bytesFrom _ _ _) fun k hk hk' => ?_
  rw [← Option.some_inj, ← List.getElem?_eq_getElem, State.getElem?_bytesFrom _ _ _ _ hk',
    State.byteAt_setBytes_inside hk']

/-! ## What an effect leaves of memory -/

/-- An effect writes no byte outside those its instruction stores from I upward (R46). -/
theorem Effect.byteAt_eq (h : Effect i s t) {c : Nat} (hc : c < s.i.toNat ∨ s.i.toNat + storedBytes i ≤ c) :
    t.byteAt c = s.byteAt c := by
  cases i
  case save | storeRegs =>
    obtain ⟨-, rfl⟩ := h
    exact State.byteAt_setBytes_outside (by rwa [State.length_regsFrom])
  case ldB => obtain ⟨-, rfl⟩ := h; exact State.byteAt_setBytes_outside hc
  case load | loadRegs => obtain ⟨-, rfl⟩ := h; rw [State.setRegs_only]; rfl
  case restoreFlags => subst h; rw [State.setRegs_only]; rfl
  case saveFlags => subst h; rw [State.setFlags_only]; rfl
  case ret => obtain ⟨-, _, -, rfl⟩ := h; rfl
  case call => obtain ⟨-, -, rfl⟩ := h; rfl
  case drw => obtain ⟨-, rfl⟩ := h; rfl
  case addReg | sub | shr | subn | shl => obtain ⟨_, _, rfl⟩ := h; rfl
  case lores | hires | exit | plane | ldVxK | ldDtVx | ldStVx | rnd => subst h; rfl
  all_goals obtain ⟨_, rfl⟩ := h; rfl

/-- Settles O26: a fault writes no memory, and an effect only the bytes it stores. -/
theorem memoryFrame : Obligations.MemoryFrame := by
  unfold Obligations.MemoryFrame
  intro i s t a h ha
  rcases exec_next h with ⟨k, rfl⟩ | heffect
  · rfl
  · exact heffect.byteAt_eq ha

/-! ## 5XY2 and 5XY3 -/

/-- Bytes read from `mem` and `params` alone. -/
theorem State.bytesFrom_congr (hm : t.mem = s.mem) (hp : t.params = s.params) (n : Nat) :
    t.bytesFrom a n = s.bytesFrom a n := by
  induction n generalizing a with
  | zero => rfl
  | succ n ih => rw [State.bytesFrom, State.bytesFrom, ih, s.byteAt_congr t hm hp]

/-- A register range whose last address is in memory is stored whole (R139, R141). -/
theorem State.storeRange_of_le {k n : Nat} (hlast : s.i.toNat + n ≤ maxAddr) :
    s.storeRange k n = .next (s.setBytes s.i.toNat (s.regsFrom k (n + 1))) :=
  if_pos hlast

/-- A register range whose last address is in memory is loaded whole (R140, R142). -/
theorem State.loadRange_of_le {k n : Nat} (hlast : s.i.toNat + n ≤ maxAddr) :
    s.loadRange k n = .next (s.setRegs k (s.bytesFrom s.i.toNat (n + 1))) :=
  if_pos hlast

/-- 5XY3 does not depend on the order of its selectors (R142). -/
theorem execLoad_comm (x y : Reg) (s : State) : execLoad x y s = execLoad y x s := by
  rw [execLoad, execLoad, rangeLo_comm, rangeSpan_comm]

/-- A register of a range that is written from the registers of `s` holds what it held in `s`. -/
theorem State.getV_setRegs_regsFrom {k n : Nat} (hfit : k + n ≤ 16) {r : Reg} (hlo : k ≤ r.toNat)
    (hhi : r.toNat < k + n) : (t.setRegs k (s.regsFrom k n)).getV r = s.getV r := by
  have hr : BitVec.ofNat 4 r.toNat = r := ((ofNat_eq_reg r.isLt r).mpr rfl).symm
  rw [State.getV_setRegs _ _ _ (by rwa [State.length_regsFrom]), if_pos hlo, List.getD_eq_getElem?_getD,
    State.getElem?_regsFrom _ _ _ _ (by omega), Nat.add_sub_cancel' hlo, hr, Option.getD_some]

/-- After a 5XY2 that fits in memory, a 5XY3 of the same selectors writes the registers that were stored, from any
state whose memory and I are those the 5XY2 left. -/
theorem execLoad_after_execSave {u : State} {x y : Reg} (hlast : s.i.toNat + rangeSpan x y ≤ maxAddr)
    (hsave : execSave x y s = .next t) (hmem : u.mem = t.mem) (hparams : u.params = t.params) (hindex : u.i = t.i) :
    execLoad x y u = .next (u.setRegs (rangeLo x y) (s.regsFrom (rangeLo x y) (rangeSpan x y + 1))) := by
  cases (State.storeRange_of_le hlast).symm.trans hsave
  have hi : u.i = s.i := by rw [hindex, State.setBytes_only]
  have hread : u.bytesFrom s.i.toNat (rangeSpan x y + 1) = s.regsFrom (rangeLo x y) (rangeSpan x y + 1) := by
    rw [State.bytesFrom_congr hmem hparams]
    nth_rw 2 [← s.length_regsFrom (rangeLo x y) (rangeSpan x y + 1)]
    exact State.bytesFrom_setBytes
  rw [execLoad, State.loadRange_of_le (by rwa [hi]), hi, hread]

/-- Settles O52: the bytes 5XY2 stored are the ones 5XY3 reads, since V is no part of memory and I did not move. -/
theorem loadAfterSaveRestores : Obligations.LoadAfterSaveRestores := by
  unfold Obligations.LoadAfterSaveRestores
  intro s t x y v i hfit hsave hi
  have hload : exec i { t with v := v } = execLoad x y { t with v := v } := by
    rcases hi with rfl | rfl
    · rfl
    · exact execLoad_comm y x _
  refine ⟨_, hload.trans (execLoad_after_execSave (Nat.le_of_lt_succ hfit) hsave rfl rfl rfl), ?_, ?_⟩
  · rw [State.setRegs_only]
  · intro r hlo hhi
    exact State.getV_setRegs_regsFrom (range_fits x y) hlo (by simp only [rangeLo, rangeSpan]; omega)

/-! ## The look-ahead (R63) -/

theorem two_le_instrLength (w : Word) : 2 ≤ instrLength w := by
  unfold instrLength
  split <;> decide

theorem succ_le_lastFetched (a : Nat) (w : Word) : a + 1 ≤ lastFetched a w := by
  have := two_le_instrLength w
  unfold lastFetched
  omega

theorem lastFetched_short {w : Word} (hw : w ≠ longWord) : lastFetched a w = a + 1 := by
  rw [lastFetched, instrLength_short w hw]
  rfl

theorem State.fetchSecond_longWord : s.fetchSecond a longWord = s.fetch16 (a + 2) := if_pos rfl

theorem State.fetchSecond_short {w : Word} (hw : w ≠ longWord) : s.fetchSecond a w = 0 := if_neg hw

/-- There is no record where the fetch reads past the top of memory (R63). -/
theorem State.lookAhead_eq_none (htop : maxAddr < lastFetched a (s.fetch16 a)) : s.lookAhead a = none := by
  rw [State.lookAhead, if_pos htop, ite_self]

/-- The record of the words that the fetch reads (R78). -/
theorem State.lookAhead_eq_some (hin : lastFetched a (s.fetch16 a) ≤ maxAddr) :
    s.lookAhead a = some (decodeRecord (s.fetch16 a) (s.fetchSecond a (s.fetch16 a))) := by
  rw [State.lookAhead, if_neg (Nat.not_lt.mpr ((succ_le_lastFetched _ _).trans hin)), if_neg (Nat.not_lt.mpr hin)]

/-- The record of a 2-byte word has no second word and the tag of that word alone (R69, R78, R79). -/
theorem decodeRecord_short {w : Word} (hw : w ≠ longWord) (n : Word) :
    decodeRecord w n = { opcode := w, length := 2, nnnn := none, tag := (classify w n).toOption } := by
  simp [decodeRecord, instrLength_short w hw]

/-- Settles O19: the length of the first word says whether the fetch stays in memory and which record it makes. -/
theorem lookAheadMakesTheRecord : Obligations.LookAheadMakesTheRecord := by
  unfold Obligations.LookAheadMakesTheRecord
  intro s a w n hw hn
  obtain rfl : s.fetch16 a = w := hw.symm
  obtain rfl : s.fetch16 (a + 2) = n := hn.symm
  refine ⟨fun htop => ?_, fun (hlong : s.fetch16 a = longWord) htop => ?_,
    fun (hlong : s.fetch16 a = longWord) hin => ?_, fun (hshort : s.fetch16 a ≠ longWord) hin => ?_⟩
  · exact State.lookAhead_eq_none (lt_of_lt_of_le htop (succ_le_lastFetched _ _))
  · exact State.lookAhead_eq_none (by rw [hlong]; exact htop)
  · rw [State.lookAhead_eq_some (by rw [hlong]; exact hin), hlong, State.fetchSecond_longWord]
    rfl
  · rw [State.lookAhead_eq_some (by rwa [lastFetched_short hshort]), State.fetchSecond_short hshort,
      decodeRecord_short hshort]

end Sys2Proof.Machine

namespace Sys2Proof

/-! ## The words of an instruction classify back to it (R69, R70) -/

theorem ne_longWord_of_group {w : Word} (hg : fieldG w ≠ 0xF) : w ≠ longWord := by
  rintro rfl
  exact hg (by decide)

theorem wordXNN_eq_longWord (x : Reg) (nn : Byte) : wordXNN 0xF#4 x nn = longWord ↔ x = 0 ∧ nn = 0 := by
  rw [show longWord = wordXNN 0xF#4 0 0 by decide, wordXNN_inj, eq_self, true_and]

/-- Every instruction but F000 is one word other than F000, which classifies back to it whatever follows. -/
theorem encode_short {i : Instr} (hi : ∀ n, i ≠ .ldILong n) :
    ∃ w, encode i = [w] ∧ w ≠ longWord ∧ ∀ n, classify w n = .ok i := by
  cases i
  case ldILong n => exact absurd rfl (hi n)
  case cls | ret | scr | scl | exit | lores | hires => exact ⟨_, rfl, by decide, fun _ => rfl⟩
  case scd | scu => exact ⟨_, rfl, ne_longWord_of_group (by simp), fun _ => by simp [classify, classify0]⟩
  case jp | call | ldI | jpOffset => exact ⟨_, rfl, ne_longWord_of_group (by simp), fun _ => by simp [classify]⟩
  case seImm | sneImm | ldImm | addImm | rnd | drw =>
    exact ⟨_, rfl, ne_longWord_of_group (by simp), fun _ => by simp [classify]⟩
  case seReg | save | load =>
    exact ⟨_, rfl, ne_longWord_of_group (by simp), fun _ => by simp [classify, classify5]⟩
  case ldReg | orReg | andReg | xorReg | addReg | sub | shr | subn | shl =>
    exact ⟨_, rfl, ne_longWord_of_group (by simp), fun _ => by simp [classify, classify8]⟩
  case sneReg => exact ⟨_, rfl, ne_longWord_of_group (by simp), fun _ => by simp [classify, classify9]⟩
  case skp | sknp => exact ⟨_, rfl, ne_longWord_of_group (by simp), fun _ => by simp [classify, classifyE]⟩
  all_goals
    exact ⟨_, rfl, by simp [wordXNN_eq_longWord], fun _ => by simp [classify, classifyF, wordXNN_eq_longWord]⟩

theorem classify_longWord (n : Word) : classify longWord n = .ok (.ldILong n) := rfl

end Sys2Proof

namespace Sys2Proof.Machine

variable {s t : State} {i : Instr} {a : Nat}

/-! ## Fetching what was stored (R50, R62) -/

/-- The first word of the bytes stored at `a` (R50). -/
theorem State.fetch16_setBytes (w : Word) (bs : List Byte) :
    (s.setBytes a (bytesOfWord w ++ bs)).fetch16 a = w := by
  simp [State.fetch16, State.byteAt_setBytes, bytesOfWord, wordOfBytes_bytesOfWord]

/-- The second word of the bytes stored at `a` (R50). -/
theorem State.fetch16_setBytes_second (w n : Word) (bs : List Byte) :
    (s.setBytes a (bytesOfWord w ++ (bytesOfWord n ++ bs))).fetch16 (a + 2) = n :=
  State.fetch16_setBytes (s := (s.setByte a _).setByte (a + 1) _) n bs

/-- The words fetched where an instruction's bytes are stored classify to it, and the first tells its length. -/
theorem State.classify_stored (ht : t = s.setBytes a (encodeBytes i)) :
    classify (t.fetch16 a) (t.fetchSecond a (t.fetch16 a)) = .ok i ∧
      instrLength (t.fetch16 a) = (encodeBytes i).length := by
  subst ht
  by_cases hlong : ∃ n, i = .ldILong n
  · obtain ⟨n, rfl⟩ := hlong
    have hbytes : encodeBytes (.ldILong n) = bytesOfWord longWord ++ (bytesOfWord n ++ []) := rfl
    rw [hbytes, State.fetch16_setBytes, State.fetchSecond_longWord, State.fetch16_setBytes_second]
    exact ⟨classify_longWord n, rfl⟩
  · obtain ⟨w, hcode, hw, hclass⟩ := encode_short (not_exists.mp hlong)
    have hbytes : encodeBytes i = bytesOfWord w ++ [] := by rw [encodeBytes, hcode]; rfl
    rw [hbytes, State.fetch16_setBytes]
    exact ⟨hclass _, instrLength_short w hw⟩

/-- A fetch gives the instruction its words classify to when `pc` can be advanced past it (R82). -/
theorem State.fetchAdvance_of_classify {w : Word} (hw : w = s.fetch16 s.pc.toNat)
    (hclass : classify w (s.fetchSecond s.pc.toNat w) = .ok i) (hroom : s.pc.toNat + instrLength w ≤ maxAddr) :
    s.fetchAdvance = .ok (i, s.setPc (BitVec.ofNat 16 (s.pc.toNat + instrLength w))) := by
  have hlast := succ_le_lastFetched s.pc.toNat w
  have hend : lastFetched s.pc.toNat w ≤ maxAddr := (Nat.sub_le _ 1).trans hroom
  rcases s.fetchAdvance_cases _ w rfl hw with ⟨hpast, -⟩ | ⟨-, hpast, -⟩ | ⟨-, hpast, -⟩ | ⟨-, ⟨_, e⟩, -⟩ | ⟨-, j, e, h⟩
  · omega
  · omega
  · omega
  · cases hclass.symm.trans e
  · cases hclass.symm.trans e
    exact h

/-- Settles O14: the fetch at `pc` reads the words just stored there, which classify to the instruction. -/
theorem fetchSeesTheLatestWrite : Obligations.FetchSeesTheLatestWrite := by
  unfold Obligations.FetchSeesTheLatestWrite
  intro s i hrun hroom
  obtain ⟨t, ht⟩ : ∃ t, t = s.setBytes s.pc.toNat (encodeBytes i) := ⟨_, rfl⟩
  have hpc : t.pc = s.pc := by rw [ht, State.setBytes_only]
  have hrun' : Running t := by rw [ht, State.setBytes_only]; exact hrun
  rw [← hpc] at ht hroom ⊢
  rw [← ht]
  obtain ⟨hclass, hlen⟩ := State.classify_stored ht
  rw [step_ok hrun' (State.fetchAdvance_of_classify rfl hclass (by rwa [hlen])), hlen]
  rfl

end Sys2Proof.Machine

namespace Sys2Proof.Machine

/-! ## The host between steps (R59) -/

/-- `t` is `s` with nothing changed but the timers and `redraw`: all that the host's operations other than `init`,
`load` and `step` may touch. -/
def OnlyTimersAndRedraw (s t : State) : Prop := t = { s with dt := t.dt, st := t.st, redraw := t.redraw }

theorem OnlyTimersAndRedraw.refl (s : State) : OnlyTimersAndRedraw s s := rfl

theorem OnlyTimersAndRedraw.trans {s t u : State} (hst : OnlyTimersAndRedraw s t) (htu : OnlyTimersAndRedraw t u) :
    OnlyTimersAndRedraw s u := by
  unfold OnlyTimersAndRedraw at *
  rw [htu, hst]

variable {h h' : Session} {op : HostOp} {ops : List HostOp}

/-- A closed window is opened by `init` alone (R166, U11). -/
theorem Session.apply_keeps_closed (e : h.apply op = .next h') (hop : op ≠ .init) (hclosed : h.loadOpen = false) :
    h'.loadOpen = false := by
  rcases Session.apply_next e with ⟨rfl, -⟩ | ⟨_, -, -, -, rfl⟩ | ⟨_, _, -, -, rfl⟩ | ⟨-, rfl⟩ | ⟨-, rfl⟩ | ⟨-, rfl⟩
  · exact absurd rfl hop
  · rfl
  · rfl
  · exact hclosed
  · exact hclosed
  · exact hclosed

/-- While the window is closed, an operation other than `init` and `step` touches only the timers and `redraw`. -/
theorem Session.apply_closed_frame (e : h.apply op = .next h') (hinit : op ≠ .init) (hstep : ∀ ks, op ≠ .step ks)
    (hclosed : h.loadOpen = false) : OnlyTimersAndRedraw h.machine h'.machine := by
  rcases Session.apply_next e with
    ⟨rfl, -⟩ | ⟨_, -, hopen, -⟩ | ⟨ks, _, rfl, -⟩ | ⟨-, rfl⟩ | ⟨-, rfl⟩ | ⟨-, rfl⟩
  · exact absurd rfl hinit
  · rw [hclosed] at hopen; cases hopen
  · exact absurd rfl (hstep ks)
  · rfl
  · rfl
  · exact .refl _

/-- So does a sequence of them. -/
theorem Session.run_closed_frame (e : h.run ops = .next h') (hinit : .init ∉ ops) (hstep : ∀ ks, .step ks ∉ ops)
    (hclosed : h.loadOpen = false) : OnlyTimersAndRedraw h.machine h'.machine := by
  induction ops generalizing h with
  | nil => cases e; exact .refl _
  | cons op ops ih =>
    obtain ⟨h₁, hfirst, hrest⟩ := Session.run_next e
    have hop : op ≠ .init := fun e => hinit (by simp [e])
    have hops : ∀ ks, op ≠ .step ks := fun ks e => hstep ks (by simp [e])
    refine (Session.apply_closed_frame hfirst hop hops hclosed).trans (ih hrest ?_ ?_ ?_)
    · exact fun hm => hinit (List.mem_cons_of_mem _ hm)
    · exact fun ks hm => hstep ks (List.mem_cons_of_mem _ hm)
    · exact Session.apply_keeps_closed hfirst hop hclosed

/-- Settles O5: the clauses about one operation are its cases, and the one about a sequence is an induction. -/
theorem loadOnlyBetweenInitAndFirstStep : Obligations.LoadOnlyBetweenInitAndFirstStep := by
  unfold Obligations.LoadOnlyBetweenInitAndFirstStep
  refine ⟨?_, ?_, ?_, ?_, ?_, ?_, ?_⟩
  · intro h h' ks e
    rw [Session.apply, Session.step] at e
    split at e <;> cases e
    rfl
  · intro h h' image e
    rcases h.load_cases image with ⟨hopen, -, l⟩ | ⟨-, -, l⟩ | ⟨-, l⟩ <;> cases l.symm.trans e
    exact ⟨hopen, rfl⟩
  · intro h image hopen hfits
    rcases h.load_cases image with ⟨-, -, l⟩ | ⟨-, hbig, -⟩ | ⟨hclosed, -⟩
    · exact ⟨_, l, if_pos (decide_eq_true hfits)⟩
    · omega
    · rw [hopen] at hclosed; cases hclosed
  · intro h h' op hop hclosed e
    exact Session.apply_keeps_closed e hop hclosed
  · intro h image hclosed
    rcases h.load_cases image with ⟨hopen, -⟩ | ⟨hopen, -⟩ | ⟨-, l⟩
    · rw [hclosed] at hopen; cases hopen
    · rw [hclosed] at hopen; cases hopen
    · exact l
  · intro ops h h' hclosed hinit hstep e
    exact Session.run_closed_frame e hinit hstep hclosed
  · exact fun h => ⟨_, rfl, rfl, rfl⟩

end Sys2Proof.Machine

namespace Sys2Proof

/-! ## Decoding what was encoded (R64, R66, R70) -/

/-- The bytes of an instruction of one word are those of that word. -/
theorem encodeBytes_of_encode {i : Instr} {w : Word} (h : encode i = [w]) : encodeBytes i = bytesOfWord w := by
  rw [encodeBytes, h, List.flatMap_singleton]

/-- The bytes of a word other than F000 decode by that word alone, and leave what follows (R69). -/
theorem decode_bytesOfWord {w : Word} (hw : w ≠ longWord) (rest : List Byte) :
    decode (bytesOfWord w ++ rest) = (classify w 0).map fun i => (i, rest) := by
  have hbytes := wordOfBytes_bytesOfWord w
  exact (decode_short _ _ rest (by rwa [hbytes])).trans (by rw [hbytes])

/-- The bytes of F000 and of the word after it decode to the long load of that word (R66). -/
theorem decode_encodeBytes_ldILong (n : Word) (rest : List Byte) :
    decode (encodeBytes (.ldILong n) ++ rest) = .ok (.ldILong n, rest) :=
  (decode_long _ _ _ _ rest (wordOfBytes_bytesOfWord longWord)).trans (by rw [wordOfBytes_bytesOfWord])

/-- Settles O16: F000 is told by its first word, and every other instruction is one word that classifies back to it. -/
theorem decodeAfterEncode : Obligations.DecodeAfterEncode := by
  unfold Obligations.DecodeAfterEncode
  intro i rest
  by_cases hlong : ∃ n, i = .ldILong n
  · obtain ⟨n, rfl⟩ := hlong
    exact decode_encodeBytes_ldILong n rest
  · obtain ⟨w, hcode, hw, hclass⟩ := encode_short (not_exists.mp hlong)
    rw [encodeBytes_of_encode hcode, decode_bytesOfWord hw, hclass]
    rfl

/-! ## The instruction a word is classified as (R71-R77) -/

section
variable {w : Word} {g : BitVec 4} {x y : Reg} {n : Nibble} {nn : Byte} {nnn : Addr12}

theorem wordXYN_eq (hg : fieldG w = g) (hx : fieldX w = x) (hy : fieldY w = y) (hn : fieldN w = n) :
    wordXYN g x y n = w := by
  rw [← hg, ← hx, ← hy, ← hn, word_of_XYN]

theorem wordXNN_eq (hg : fieldG w = g) (hx : fieldX w = x) (hnn : fieldNN w = nn) : wordXNN g x nn = w := by
  rw [← hg, ← hx, ← hnn, word_of_XNN]

theorem wordNNN_eq (hg : fieldG w = g) (hnnn : fieldNNN w = nnn) : wordNNN g nnn = w := by
  rw [← hg, ← hnnn, word_of_NNN]

end

/-- The words an instruction takes whose first word is `w` and is followed by `n` (R66). -/
def instrWords (w n : Word) : List Word := if w = longWord then [w, n] else [w]

theorem instrWords_long (n : Word) : instrWords longWord n = [longWord, n] := if_pos rfl

theorem instrWords_short {w : Word} (hw : w ≠ longWord) (n : Word) : instrWords w n = [w] := if_neg hw

/-- All that `classify` can answer for the words `ws`, the first of which is `w`: Unknown, or the instruction whose
encoding they are. -/
def Answers (w : Word) (ws : List Word) (r : Except DecodeError Instr) : Prop :=
  r = .error (.unknown w) ∨ ∃ i, r = .ok i ∧ encode i = ws

section
variable {w : Word} {ws : List Word} {i : Instr} {r : Except DecodeError Instr} {c : Prop} [Decidable c]

theorem Answers.unknown : Answers w ws (.error (.unknown w)) := .inl rfl

theorem Answers.ok (h : encode i = ws) : Answers w ws (.ok i) := .inr ⟨i, rfl, h⟩

/-- One row of a group's table: the instruction when the fields are the row's, and the rows after it otherwise. -/
theorem Answers.row (hrow : c → encode i = ws) (hrest : Answers w ws r) : Answers w ws (if c then .ok i else r) := by
  split
  · exact .ok (hrow ‹_›)
  · exact hrest

end

/-- Group 0 (R71): the rows that have N, and then those told by the whole low byte. -/
theorem classify0_answers {w : Word} (hg : fieldG w = 0) : Answers w [w] (classify0 w) := by
  unfold classify0
  split
  · exact .unknown
  · have hx : fieldX w = 0 := not_not.mp ‹_›
    refine .row (fun hy => congrArg ([·]) (wordXYN_eq hg hx hy rfl)) ?_
    refine .row (fun hy => congrArg ([·]) (wordXYN_eq hg hx hy rfl)) ?_
    iterate 7 refine .row (fun hnn => congrArg ([·]) (wordXNN_eq hg hx hnn)) ?_
    exact .unknown

/-- Group 5 (R72). -/
theorem classify5_answers {w : Word} (hg : fieldG w = 5) : Answers w [w] (classify5 w) := by
  unfold classify5
  iterate 3 refine .row (fun hn => congrArg ([·]) (wordXYN_eq hg rfl rfl hn)) ?_
  exact .unknown

/-- Group 8 (R73). -/
theorem classify8_answers {w : Word} (hg : fieldG w = 8) : Answers w [w] (classify8 w) := by
  unfold classify8
  iterate 9 refine .row (fun hn => congrArg ([·]) (wordXYN_eq hg rfl rfl hn)) ?_
  exact .unknown

/-- Group 9 (R74). -/
theorem classify9_answers {w : Word} (hg : fieldG w = 9) : Answers w [w] (classify9 w) :=
  .row (fun hn => congrArg ([·]) (wordXYN_eq hg rfl rfl hn)) .unknown

/-- Group E (R75). -/
theorem classifyE_answers {w : Word} (hg : fieldG w = 0xE) : Answers w [w] (classifyE w) := by
  unfold classifyE
  iterate 2 refine .row (fun hnn => congrArg ([·]) (wordXNN_eq hg rfl hnn)) ?_
  exact .unknown

/-- Group F (R76): the exact word F000, and then the rows told by the low byte. -/
theorem classifyF_answers {w : Word} (hg : fieldG w = 0xF) (n : Word) : Answers w (instrWords w n) (classifyF w n) := by
  by_cases hw : w = longWord
  · subst hw
    exact .ok (instrWords_long n).symm
  · rw [instrWords_short hw, classifyF, if_neg hw]
    iterate 13 refine .row (fun hnn => congrArg ([·]) (wordXNN_eq hg rfl hnn)) ?_
    exact .unknown

/-- The group selector that is none of the fifteen lower values is F (R77). -/
theorem group_eq_F (g : BitVec 4) : g ≠ 0 → g ≠ 1 → g ≠ 2 → g ≠ 3 → g ≠ 4 → g ≠ 5 → g ≠ 6 → g ≠ 7 → g ≠ 8 → g ≠ 9 →
    g ≠ 10 → g ≠ 11 → g ≠ 12 → g ≠ 13 → g ≠ 14 → g = 0xF := by
  bv_omega

/-- A word is Unknown, or classifies to the instruction that its words encode (R71-R77). -/
theorem classify_answers (w n : Word) : Answers w (instrWords w n) (classify w n) := by
  by_cases hF : fieldG w = 0xF
  · rw [classify, hF]
    exact classifyF_answers hF n
  · rw [instrWords_short (ne_longWord_of_group hF)]
    unfold classify
    split
    case h_1 hg => exact classify0_answers hg
    case h_6 hg => exact classify5_answers hg
    case h_9 hg => exact classify8_answers hg
    case h_10 hg => exact classify9_answers hg
    case h_15 hg => exact classifyE_answers hg
    case h_2 hg | h_3 hg | h_11 hg | h_12 hg => exact .ok (congrArg ([·]) (wordNNN_eq hg rfl))
    case h_4 hg | h_5 hg | h_7 hg | h_8 hg | h_13 hg => exact .ok (congrArg ([·]) (wordXNN_eq hg rfl rfl))
    case h_14 hg => exact .ok (congrArg ([·]) (wordXYN_eq hg rfl rfl rfl))
    case h_16 => exact absurd (by apply group_eq_F <;> assumption) hF

end Sys2Proof

namespace Sys2Proof

/-! ## What a classified word says of its instruction (R69, R70) -/

section
variable {w n : Word} {i : Instr}

/-- A classified word and the one after it are the words of the instruction: no bit of them is dropped. -/
theorem encode_of_classify (h : classify w n = .ok i) : encode i = instrWords w n := by
  rcases classify_answers w n with hunknown | ⟨j, hj, hcode⟩
  · cases hunknown.symm.trans h
  · cases hj.symm.trans h
    exact hcode

/-- What the decoder does not classify it answers as Unknown, by its word (R77). -/
theorem classify_error {e : DecodeError} (h : classify w n = .error e) : e = .unknown w := by
  rcases classify_answers w n with hunknown | ⟨j, hj, -⟩
  · cases hunknown.symm.trans h
    rfl
  · cases hj.symm.trans h

/-- The family EncodesInRow for every instruction: the lemma of its constructor. -/
theorem encodesInRow (i : Instr) : Laws.EncodesInRow.Statement i := by
  open Laws.EncodesInRow in
  cases i
  exacts [scd _, scu _, cls, ret, scr, scl, exit, lores, hires, jp _, call _, seImm _ _, sneImm _ _, seReg _ _,
    save _ _, load _ _, ldImm _ _, addImm _ _, ldReg _ _, orReg _ _, andReg _ _, xorReg _ _, addReg _ _, sub _ _,
    shr _ _, subn _ _, shl _ _, sneReg _ _, ldI _, jpOffset _, rnd _ _, drw _ _ _, skp _, sknp _, ldILong _, plane _,
    ldVxDt _, ldVxK _, ldDtVx _, ldStVx _, addI _, ldF _, ldHf _, ldB _, storeRegs _, loadRegs _, saveFlags _,
    restoreFlags _]

theorem head_instrWords (w n : Word) : (instrWords w n).head? = some w := by
  unfold instrWords
  split <;> rfl

/-- A classified word is of the row of its instruction, and tells how many bytes that has. -/
theorem row_of_classify (h : classify w n = .ok i) :
    (rowOf i).hit w = true ∧ instrLength w = (encodeBytes i).length := by
  obtain ⟨v, vs, hcode, hrow⟩ := encodesInRow i
  have hw : v = w := by
    rw [← Option.some_inj, ← head_instrWords w n, ← encode_of_classify h, hcode, List.head?_cons]
  rwa [← hw]

end

/-! ## Encoding what was decoded -/

/-- Settles O17: a classified word and the one after it are the words of the instruction, and bytes make up words. -/
theorem encodeAfterDecode : Obligations.EncodeAfterDecode := by
  unfold Obligations.EncodeAfterDecode
  intro bs rest i h
  rcases bs with _ | ⟨b0, _ | ⟨b1, bs⟩⟩
  · cases h
  · cases h
  by_cases hw : wordOfBytes b0 b1 = longWord
  · rcases bs with _ | ⟨b2, _ | ⟨b3, bs⟩⟩
    · simp [decode, hw, instrLength] at h
    · simp [decode, hw, instrLength] at h
    · cases (decode_long b0 b1 b2 b3 bs hw).symm.trans h
      rw [encodeBytes, encode, ← hw]
      simp [bytesOfWord_wordOfBytes]
  · rw [decode_short b0 b1 bs hw] at h
    rcases hclass : classify (wordOfBytes b0 b1) 0 with e | j <;> rw [hclass] at h <;> cases h
    rw [encodeBytes_of_encode ((encode_of_classify hclass).trans (instrWords_short hw 0)), bytesOfWord_wordOfBytes]
    rfl

/-! ## The rows of the opcode table (R70) -/

/-- The table's rows are in the order of the constructors. -/
theorem opcodeTable_getElem? (i : Instr) : opcodeTable[i.ctorIdx]? = some (rowOf i) := by
  cases i <;> rfl

theorem rowOf_mem (i : Instr) : rowOf i ∈ opcodeTable := List.mem_of_getElem? (opcodeTable_getElem? i)

section
variable {w v : Word}

theorem value_of_hit {m : Word} (h : OpcodeRow.hit ⟨v, m⟩ w = true) : w &&& m = v := eq_of_beq h

theorem eq_of_hit_FFFF (h : OpcodeRow.hit ⟨v, 0xFFFF⟩ w = true) : w = v :=
  (BitVec.and_allOnes (x := w)).symm.trans (value_of_hit h)

theorem fields_of_hit_FFF0 (h : OpcodeRow.hit ⟨v, 0xFFF0⟩ w = true) :
    fieldG w = fieldG v ∧ fieldX w = fieldX v ∧ fieldY w = fieldY v := by
  obtain rfl := (and_FFF0 w).symm.trans (value_of_hit h)
  simp

theorem fields_of_hit_F00F (h : OpcodeRow.hit ⟨v, 0xF00F⟩ w = true) : fieldG w = fieldG v ∧ fieldN w = fieldN v := by
  obtain rfl := (and_F00F w).symm.trans (value_of_hit h)
  simp

theorem fields_of_hit_F0FF (h : OpcodeRow.hit ⟨v, 0xF0FF⟩ w = true) : fieldG w = fieldG v ∧ fieldNN w = fieldNN v := by
  obtain rfl := (and_F0FF w).symm.trans (value_of_hit h)
  simp

theorem group_of_hit_F000 (h : OpcodeRow.hit ⟨v, 0xF000⟩ w = true) : fieldG w = fieldG v := by
  obtain rfl := (and_F000 w).symm.trans (value_of_hit h)
  simp

end

/-- A word of a row classifies to an instruction of that row: the fields under the row's mask are those its group's
rule asks for. -/
theorem classify_of_hit {j : Instr} {w : Word} (h : (rowOf j).hit w = true) (n : Word) :
    ∃ i, classify w n = .ok i ∧ rowOf i = rowOf j := by
  cases j
  case cls | ret | scr | scl | exit | lores | hires | ldILong =>
    cases eq_of_hit_FFFF h
    exact ⟨_, rfl, rfl⟩
  case scd | scu =>
    obtain ⟨hg, hx, hy⟩ := fields_of_hit_FFF0 h
    rw [classify, hg, classify0, hx, hy]
    exact ⟨_, rfl, rfl⟩
  case jp | call | seImm | sneImm | ldImm | addImm | ldI | jpOffset | rnd | drw =>
    rw [classify, group_of_hit_F000 h]
    exact ⟨_, rfl, rfl⟩
  case seReg | save | load =>
    obtain ⟨hg, hn⟩ := fields_of_hit_F00F h
    rw [classify, hg, classify5, hn]
    exact ⟨_, rfl, rfl⟩
  case ldReg | orReg | andReg | xorReg | addReg | sub | shr | subn | shl =>
    obtain ⟨hg, hn⟩ := fields_of_hit_F00F h
    rw [classify, hg, classify8, hn]
    exact ⟨_, rfl, rfl⟩
  case sneReg =>
    obtain ⟨hg, hn⟩ := fields_of_hit_F00F h
    rw [classify, hg, classify9, hn]
    exact ⟨_, rfl, rfl⟩
  case skp | sknp =>
    obtain ⟨hg, hnn⟩ := fields_of_hit_F0FF h
    rw [classify, hg, classifyE, hnn]
    exact ⟨_, rfl, rfl⟩
  all_goals
    obtain ⟨hg, hnn⟩ := fields_of_hit_F0FF h
    have hw : w ≠ longWord := by rintro rfl; cases hnn
    rw [classify, hg, classifyF, if_neg hw, hnn]
    exact ⟨_, rfl, rfl⟩

/-- A word of no row is Unknown (R77). -/
theorem classify_of_no_row {w : Word} (hnone : ∀ r ∈ opcodeTable, r.hit w = false) (n : Word) :
    classify w n = .error (.unknown w) := by
  rcases h : classify w n with e | i
  · rw [classify_error h]
  · have hmiss := hnone _ (rowOf_mem i)
    rw [(row_of_classify h).1] at hmiss
    cases hmiss

/-- The word F000 has a row. -/
theorem ne_longWord_of_no_row {w : Word} (hnone : ∀ r ∈ opcodeTable, r.hit w = false) : w ≠ longWord := by
  rintro rfl
  cases (classify_longWord 0).symm.trans (classify_of_no_row hnone 0)

/-- Settles O15: a row's words classify to an instruction of the row, so that two rows of one word are one row; what is
classified is of its instruction's row, and the decoder's one error is Unknown. -/
theorem decoderIsTheOpcodeTable : Obligations.DecoderIsTheOpcodeTable := by
  unfold Obligations.DecoderIsTheOpcodeTable
  refine ⟨rfl, fun w n => ?_⟩
  have hclass : ∀ r ∈ opcodeTable, r.hit w = true → ∃ i, classify w n = .ok i ∧ rowOf i = r := by
    intro r hr hhit
    obtain ⟨j, -, rfl⟩ := List.mem_map.mp hr
    exact classify_of_hit hhit n
  refine ⟨fun i h => ⟨rowOf_mem i, (row_of_classify h).1⟩, hclass, ?_, ?_⟩
  · intro r hr q hq hrhit hqhit
    obtain ⟨i, hi, rfl⟩ := hclass r hr hrhit
    obtain ⟨j, hj, rfl⟩ := hclass q hq hqhit
    cases hi.symm.trans hj
    rfl
  · exact fun hnone => classify_of_no_row hnone n

end Sys2Proof

namespace Sys2Proof.Machine

variable {s : State} {w : Word}

/-! ## A step of a halted and of a waiting engine (R80, R81) -/

/-- A halted engine's step (R80). -/
theorem step_halted (hh : s.halted = true) : step s = .next s := if_pos hh

/-- A waiting engine's step polls the keys (R81). -/
theorem step_waiting {r : Reg} (hh : s.halted = false) (hw : s.waiting = some r) : step s = .next (s.pollKeys r) := by
  simp [step, hh, hw]

/-- Settles O8: the halt is the first thing a step looks at. -/
theorem haltedStepDoesNothing : Obligations.HaltedStepDoesNothing := by
  unfold Obligations.HaltedStepDoesNothing
  exact fun s => step_halted

/-- No key is found exactly when none is pressed. -/
theorem State.firstKey_eq_none (h : ∀ k, s.pressed k = false) : s.firstKey = none := by
  rcases s.firstKey_cases with ⟨hnone, -⟩ | ⟨k, -, hk, -⟩
  · exact hnone
  · rw [h k] at hk
    cases hk

/-- The key found is the lowest one pressed, since there is only one such key. -/
theorem State.firstKey_eq_some {k : Nibble} (hk : s.pressed k = true)
    (hlow : ∀ j : Nibble, j.toNat < k.toNat → s.pressed j = false) : s.firstKey = some k := by
  rcases s.firstKey_cases with ⟨-, hnone⟩ | ⟨j, hfound, hj, hlow'⟩
  · rw [hnone k] at hk
    cases hk
  · rcases lt_trichotomy j.toNat k.toNat with hlt | heq | hgt
    · rw [hlow j hlt] at hj
      cases hj
    · rw [hfound, BitVec.eq_of_toNat_eq heq]
    · rw [hlow' k hgt] at hk
      cases hk

/-- Settles O11: the poll is decided by the first pressed key. -/
theorem keyWaitPolls : Obligations.KeyWaitPolls := by
  unfold Obligations.KeyWaitPolls
  intro s r hh hw
  rw [step_waiting hh hw, State.pollKeys]
  refine ⟨fun hnone => ?_, fun k hk hlow => ?_⟩
  · rw [State.firstKey_eq_none hnone]
  · rw [State.firstKey_eq_some hk hlow]
    refine ⟨_, rfl, rfl, fun q => ?_⟩
    rw [BitVec.ofNat_toNat]
    exact s.getV_setV r q _

/-! ## The faults of the step cycle (R82, R83, R154) -/

section
variable (hrun : Running s)
include hrun

/-- The first check of the fetch fails: the word at `pc` has no second byte (R82). -/
theorem step_fetch_fault (h : maxAddr < s.pc.toNat + 1) :
    step s = .next (s.raise (.outOfBounds .fetch (s.pc.toNat + 1)) s.pc) :=
  step_error hrun (if_pos h)

/-- The second fails: the instruction's last byte is past the top of memory (R82). -/
theorem step_fetch_rest_fault (hw : s.fetch16 s.pc.toNat = w) (hin : s.pc.toNat + 1 ≤ maxAddr)
    (h : maxAddr < lastFetched s.pc.toNat w) :
    step s = .next (s.raise (.outOfBounds .fetch (lastFetched s.pc.toNat w)) s.pc) := by
  subst hw
  exact step_error hrun ((if_neg (Nat.not_lt.mpr hin)).trans (if_pos h))

/-- The third fails: `pc` cannot be advanced past the instruction (R82, D3). -/
theorem step_advance_fault (hw : s.fetch16 s.pc.toNat = w) (hin : lastFetched s.pc.toNat w ≤ maxAddr)
    (h : maxAddr < s.pc.toNat + instrLength w) :
    step s = .next (s.raise (.outOfBounds .pc (s.pc.toNat + instrLength w)) s.pc) := by
  subst hw
  have hfirst := (succ_le_lastFetched _ _).trans hin
  exact step_error hrun
    ((if_neg (Nat.not_lt.mpr hfirst)).trans ((if_neg (Nat.not_lt.mpr hin)).trans (if_pos h)))

/-- The three checks pass and the word is Unknown: the fault is taken with `pc` advanced (R83, D5). -/
theorem step_unknown_fault {e : DecodeError} (hw : s.fetch16 s.pc.toNat = w)
    (hroom : s.pc.toNat + instrLength w ≤ maxAddr) (hclass : classify w (s.fetchSecond s.pc.toNat w) = .error e) :
    step s = .next ((s.setPc (BitVec.ofNat 16 (s.pc.toNat + instrLength w))).raise (.unknownOpcode w s.pc) s.pc) := by
  have hlast := succ_le_lastFetched s.pc.toNat w
  have hend : lastFetched s.pc.toNat w ≤ maxAddr := (Nat.sub_le _ 1).trans hroom
  rcases s.fetchAdvance_cases _ w rfl hw.symm with
    ⟨hpast, -⟩ | ⟨-, hpast, -⟩ | ⟨-, hpast, -⟩ | ⟨-, -, hfetch⟩ | ⟨-, i, hok, -⟩
  · omega
  · omega
  · omega
  · exact step_error hrun hfetch
  · cases hclass.symm.trans hok

end

/-- Settles O13: each clause is one check that fails, or the Unknown word; a halt by `haltedBy` is `raise`. -/
theorem stepCycleFaults : Obligations.StepCycleFaults := by
  unfold Obligations.StepCycleFaults
  intro s w hrun hbytes
  have hw : s.fetch16 s.pc.toNat = w := hbytes.symm
  have hmax : maxAddr = 0xFFFF := rfl
  refine ⟨fun htop => ?_, fun hpc hlong hpast => ?_, fun hlong hend => ?_, fun hshort hend => ?_, fun hroom hnone => ?_⟩
  · have hend : s.pc.toNat + 1 = 0x10000 := congrArg (BitVec.toNat · + 1) htop
    have hstep := step_fetch_fault hrun (by omega)
    rwa [hend] at hstep
  · obtain rfl : w = longWord := hlong
    have hin : s.pc.toNat + 1 ≤ 0xFFFF := by bv_omega
    exact step_fetch_rest_fault hrun hw hin hpast
  · obtain rfl : w = longWord := hlong
    have hend' : s.pc.toNat + instrLength longWord = 0x10000 := congrArg (· + 1) hend
    have hstep := step_advance_fault hrun hw hend.le (by omega)
    rwa [hend'] at hstep
  · have hend' : s.pc.toNat + instrLength w = 0x10000 := by rw [instrLength_short w hshort]; omega
    have hstep := step_advance_fault hrun hw ((lastFetched_short hshort).trans hend).le (by omega)
    rwa [hend'] at hstep
  · have hlen : instrLength w = 2 := instrLength_short w (ne_longWord_of_no_row hnone)
    have hpc : BitVec.ofNat 16 (s.pc.toNat + 2) = s.pc + 2 := by bv_omega
    have hstep := step_unknown_fault hrun hw (by omega) (classify_of_no_row hnone _)
    rwa [hlen, hpc] at hstep

/-! ## The instruction a step runs (R82) -/

/-- The four bytes at an address decode as the words fetched there classify (R66, R69). -/
theorem State.decode_bytesFrom (s : State) (a : Nat) :
    ∃ rest, decode (s.bytesFrom a 4) =
      (classify (s.fetch16 a) (s.fetchSecond a (s.fetch16 a))).map fun i => (i, rest) := by
  by_cases hw : s.fetch16 a = longWord
  · rw [hw, State.fetchSecond_longWord, classify_longWord]
    exact ⟨[], decode_long _ _ _ _ [] hw⟩
  · rw [State.fetchSecond_short hw]
    exact ⟨_, decode_short _ _ _ hw⟩

/-- Settles O12: the bytes at `pc` decode as the fetch classifies them, and the first word tells the instruction's
length. -/
theorem stepRunsTheDecodedInstruction : Obligations.StepRunsTheDecodedInstruction := by
  unfold Obligations.StepRunsTheDecodedInstruction
  intro s i rest hrun hdecode hroom
  obtain ⟨rest', hbytes⟩ := s.decode_bytesFrom s.pc.toNat
  rw [hbytes] at hdecode
  rcases hclass : classify (s.fetch16 s.pc.toNat) (s.fetchSecond s.pc.toNat (s.fetch16 s.pc.toNat)) with e | j <;>
    rw [hclass] at hdecode <;> cases hdecode
  have hlen := (row_of_classify hclass).2
  rw [step_ok hrun (State.fetchAdvance_of_classify rfl hclass (by rwa [hlen])), hlen]
  rfl

/-! ## Every step answers -/

/-- A bounds check answers when the rest of the rule does. -/
theorem State.checkBound_answers {k : AccessKind} {a : Nat} {rest : Result} (h : ∃ t, rest = .next t) :
    ∃ t, s.checkBound k a rest = .next t := by
  rcases s.checkBound_cases k a rest with ⟨-, e⟩ | ⟨-, e⟩ <;> rw [e]
  · exact h
  · exact ⟨_, rfl⟩

theorem State.skipIf_answers (c : Bool) : ∃ t, s.skipIf c = .next t := by
  rcases s.skipIf_cases c with ⟨-, e⟩ | ⟨-, w, e⟩ | ⟨-, k, a, -, e⟩ <;> exact ⟨_, e⟩

theorem State.skipTwoIf_answers (c : Bool) : ∃ t, s.skipTwoIf c = .next t := by
  rcases s.skipTwoIf_cases c with ⟨-, e⟩ | ⟨-, w, e⟩ | ⟨-, k, a, -, e⟩ <;> exact ⟨_, e⟩

/-- A CALL answers when each count below STACK_DEPTH has a slot (R20). -/
theorem execCall_answers (hslots : s.params.stackDepth ≤ s.stack.length) (nnn : Addr12) :
    ∃ t, execCall nnn s = .next t := by
  unfold execCall
  split
  · rcases s.push_cases s.pc with ⟨-, e⟩ | ⟨hfull, -⟩
    · rw [e]; exact ⟨_, rfl⟩
    · omega
  · exact ⟨_, rfl⟩

/-- A RET answers when each entry that is counted has a slot (R20, R21). -/
theorem execRet_answers (hslots : s.sp ≤ s.stack.length) : ∃ t, execRet s = .next t := by
  unfold execRet
  split
  · rcases s.pop_cases with ⟨w, -, e⟩ | ⟨hfull, -⟩
    · rw [e]; exact ⟨_, rfl⟩
    · omega
  · exact ⟨_, rfl⟩

/-- Every instruction answers a next state when the stack has its slots: only CALL and RET can fault otherwise. -/
theorem exec_answers (hdepth : s.stack.length = s.params.stackDepth) (hcount : s.sp ≤ s.params.stackDepth)
    (i : Instr) : ∃ t, exec i s = .next t := by
  cases i
  case ret => exact execRet_answers (by omega)
  case call => exact execCall_answers (by omega) _
  case seImm | sneImm | seReg | sneReg => exact State.skipIf_answers _
  case skp | sknp => exact State.skipTwoIf_answers _
  case save | load | storeRegs | loadRegs | ldB | drw => exact State.checkBound_answers ⟨_, rfl⟩
  all_goals exact ⟨_, rfl⟩

/-- Settles O22: only an instruction could fault, and the invariant gives it the slots of the stack. -/
theorem stepAlwaysAnswers : Obligations.StepAlwaysAnswers := by
  unfold Obligations.StepAlwaysAnswers
  intro s hs
  rcases step_cases s with ⟨-, e⟩ | ⟨-, r, -, e⟩ | ⟨-, -, ⟨i, u, hfetch, e⟩ | ⟨u, -, e⟩⟩ <;> rw [e]
  · exact ⟨_, rfl⟩
  · exact ⟨_, rfl⟩
  · obtain ⟨w, rfl⟩ := State.fetchAdvance_ok hfetch
    exact exec_answers (s := s.setPc w) hs.depth hs.count i
  · exact ⟨_, rfl⟩

/-- Settles O18: the decoder run on each of the eighteen. -/
theorem specWordsDecode : Obligations.SpecWordsDecode := by
  unfold Obligations.SpecWordsDecode
  exact ⟨rfl, rfl, rfl, rfl, rfl, rfl, rfl, rfl, rfl, rfl, rfl, rfl, rfl, rfl, rfl, rfl, rfl, rfl⟩

end Sys2Proof.Machine

namespace Sys2Proof

open Sys2Proof.Machine

variable {s : State}

/-! ## The free slot of the stack (R21) -/

/-- The slot a CALL fills holds 0 before it, so clearing it is no change (R21). -/
theorem StateInv.stack_set_sp_zero (hs : StateInv s) : s.stack.set s.sp 0 = s.stack := by
  have hfree : s.stack.getD s.sp 0 = 0 := hs.popped s.sp le_rfl
  rcases Nat.lt_or_ge s.sp s.stack.length with hslot | hnone
  · rw [List.getD_eq_getElem _ _ hslot] at hfree
    rw [← hfree, List.set_getElem_self]
  · exact List.set_eq_of_length_le hnone

end Sys2Proof

namespace Sys2Proof.Machine

variable {s : State} {nnn : Addr12}

/-! ## Jumps (R90, R91) -/

/-- A literal target is its own number (R67). -/
theorem targetNNN_eq_ofNat (nnn : Addr12) : targetNNN nnn = BitVec.ofNat 16 nnn.toNat :=
  (BitVec.ofNat_toNat 16 nnn).symm

/-- The sum is at most 0x10FE, so it does not wrap (R91, D14). -/
theorem State.toNat_targetOffset (s : State) (nnn : Addr12) :
    (s.targetOffset nnn).toNat = nnn.toNat + (s.getV (s.offsetReg nnn)).toNat := by
  rw [State.targetOffset, targetNNN]
  bv_omega

theorem State.offsetReg_vx (hreg : s.params.jumpOffsetReg = .vx) :
    s.offsetReg nnn = BitVec.ofNat 4 (nnn.toNat / 256) := by
  rw [State.offsetReg, hreg]
  exact congrArg (BitVec.ofNat 4) (Nat.shiftRight_eq_div_pow _ 8)

theorem State.offsetReg_v0 (hreg : s.params.jumpOffsetReg = .v0) : s.offsetReg nnn = 0 := by
  rw [State.offsetReg, hreg]

/-- Settles O36: the target is the literal zero-extended. -/
theorem absoluteJump : Obligations.AbsoluteJump := by
  unfold Obligations.AbsoluteJump
  intro s nnn
  rw [← targetNNN_eq_ofNat]
  rfl

/-- Settles O37: the target as a number, with the register that the parameter chooses. -/
theorem offsetJump : Obligations.OffsetJump := by
  unfold Obligations.OffsetJump
  intro s nnn
  have htarget := s.toNat_targetOffset nnn
  refine ⟨s.setPc (s.targetOffset nnn), rfl, rfl, fun hvx => ?_, fun hv0 => ?_⟩
  · rwa [State.offsetReg_vx hvx] at htarget
  · rwa [State.offsetReg_v0 hv0] at htarget

/-! ## Call and return (R87, R89) -/

/-- Settles O38: a CALL answers, and has pushed or overflowed. -/
theorem callPushesOrOverflows : Obligations.CallPushesOrOverflows := by
  unfold Obligations.CallPushesOrOverflows
  intro s nnn hdepth
  obtain ⟨t, hcall⟩ : ∃ t, exec (.call nnn) s = .next t := execCall_answers hdepth.ge nnn
  rw [hcall, ← targetNNN_eq_ofNat]
  rcases execCall_next hcall with ⟨hroom, -, rfl⟩ | ⟨hfull, rfl⟩
  · exact ⟨fun _ => rfl, fun hfull => absurd hroom (Nat.not_lt.mpr hfull)⟩
  · exact ⟨fun hroom => absurd hroom (Nat.not_lt.mpr hfull), fun _ => rfl⟩

/-- A RET with a counted entry to pop (R87). -/
theorem exec_ret_pops {w : Word} (hcount : 1 ≤ s.sp) (hentry : s.stack[s.sp - 1]? = some w) :
    exec .ret s = .next { s with stack := s.stack.set (s.sp - 1) 0, sp := s.sp - 1, pc := w } := by
  rw [exec, execRet, if_pos hcount, State.pop, hentry]
  rfl

/-- A RET with the stack empty (R149). -/
theorem exec_ret_underflows (hempty : s.sp = 0) :
    exec .ret s = .next (s.raise (.stackUnderflow s.fetchedFrom) s.fetchedFrom) :=
  if_neg (by omega)

/-- Settles O39: each counted entry has its slot, and an empty stack has none to pop. -/
theorem returnPopsOrUnderflows : Obligations.ReturnPopsOrUnderflows := by
  unfold Obligations.ReturnPopsOrUnderflows
  intro s hslots
  refine ⟨fun hcount => ?_, exec_ret_underflows⟩
  have hslot : s.sp - 1 < s.stack.length := by omega
  rw [exec_ret_pops hcount (List.getElem?_eq_getElem hslot), List.getD_eq_getElem _ _ hslot]

/-- Settles O40: RET pops what CALL pushed, and the slot it clears was 0 before the CALL. -/
theorem returnUndoesCall : Obligations.ReturnUndoesCall := by
  unfold Obligations.ReturnUndoesCall
  intro s t nnn q hs hroom hcall
  rcases execCall_next hcall with ⟨-, hslot, rfl⟩ | ⟨hfull, -⟩
  · have hentry : (s.stack.set s.sp s.pc)[s.sp]? = some s.pc := List.getElem?_set_self hslot
    refine Eq.trans (exec_ret_pops (Nat.succ_pos s.sp) hentry) ?_
    simp only [Nat.add_sub_cancel, List.set_set, hs.stack_set_sp_zero]
  · omega

/-! ## Conditional skips (R88) -/

/-- The look-ahead tells the 4-byte form by its two bytes (R69). -/
theorem State.fetch16_eq_longWord (s : State) (a : Nat) :
    s.fetch16 a = longWord ↔ s.byteAt a = 0xF0 ∧ s.byteAt (a + 1) = 0x00 := by
  constructor
  · intro hlong
    have hbytes : [s.byteAt a, s.byteAt (a + 1)] = [0xF0, 0x00] :=
      (bytesOfWord_wordOfBytes _ _).symm.trans (congrArg bytesOfWord hlong)
    simpa using hbytes
  · rintro ⟨hhi, hlo⟩
    rw [State.fetch16, hhi, hlo]
    rfl

/-- The length of the word at an address, by its bytes (R69). -/
theorem State.instrLength_fetch16 (s : State) (a : Nat) :
    instrLength (s.fetch16 a) = if s.byteAt a = 0xF0 ∧ s.byteAt (a + 1) = 0x00 then 4 else 2 := by
  simp only [instrLength, s.fetch16_eq_longWord]

/-- At the last address the look-ahead has no second byte to read. -/
theorem State.skipNext_at_top (htop : s.pc = 0xFFFF) :
    s.skipNext = .next (s.raise (.outOfBounds .fetch 0x10000) s.fetchedFrom) := by
  have hpast : s.pc.toNat + 1 = 0x10000 := congrArg (BitVec.toNat · + 1) htop
  rw [State.skipNext, hpast]
  exact if_neg (by decide)

/-- Anywhere else it reads the length to advance by. -/
theorem State.skipNext_below_top (hin : s.pc ≠ 0xFFFF) :
    s.skipNext = s.advance (instrLength (s.fetch16 s.pc.toNat)) := by
  have hpc : s.pc.toNat + 1 ≤ 0xFFFF := by bv_omega
  exact if_pos hpc

/-- What the four conditional skips share: each is `skipIf` on its own condition, and looks ahead only when that holds
(R88, D31). -/
theorem State.skipIf_skipsNext {b : Bool} {c : Prop} (hc : b = true ↔ c) : SkipsNext s c (s.skipIf b) := by
  have hskip (hyes : c) : s.skipIf b = s.skipNext := if_pos (hc.mpr hyes)
  refine ⟨fun hno => if_neg (mt hc.mp hno), fun hyes htop => ?_, fun hyes hin n hn => ?_⟩
  · rw [hskip hyes, State.skipNext_at_top htop]
    rfl
  · obtain rfl := hn.trans (s.instrLength_fetch16 s.pc.toNat).symm
    rw [hskip hyes, State.skipNext_below_top hin]
    exact ⟨fun hpast => if_neg (Nat.not_le.mpr hpast), fun hroom => if_pos hroom⟩

/-- Settles O41: the four differ in the comparison alone. -/
theorem conditionalSkips : Obligations.ConditionalSkips := by
  unfold Obligations.ConditionalSkips
  exact fun s x y nn => ⟨State.skipIf_skipsNext beq_iff_eq, State.skipIf_skipsNext bne_iff_ne,
    State.skipIf_skipsNext beq_iff_eq, State.skipIf_skipsNext bne_iff_ne⟩

/-! ## Exit (R96) -/

/-- Settles O43: the state that EXIT leaves is halted. -/
theorem exitHaltsCleanly : Obligations.ExitHaltsCleanly := by
  unfold Obligations.ExitHaltsCleanly
  exact fun s => ⟨s.halt, rfl, rfl, step_halted rfl⟩

end Sys2Proof.Machine

namespace Sys2Proof.Machine

/-! ## Bytes as numbers (R98) -/

theorem ofNat_toNat_add (x y : Byte) : BitVec.ofNat 8 ((x.toNat + y.toNat) % 256) = x + y := by bv_omega

theorem ofNat_toNat_sub (x y : Byte) : BitVec.ofNat 8 ((x.toNat + 256 - y.toNat) % 256) = x - y := by bv_omega

theorem ofNat_toNat_ushiftRight_one (x : Byte) : BitVec.ofNat 8 (x.toNat / 2) = x >>> 1 := by
  apply BitVec.eq_of_toNat_eq
  rw [BitVec.toNat_ushiftRight, Nat.shiftRight_eq_div_pow, BitVec.toNat_ofNat]
  omega

theorem ofNat_toNat_shiftLeft_one (x : Byte) : BitVec.ofNat 8 (2 * x.toNat % 256) = x <<< 1 := by
  apply BitVec.eq_of_toNat_eq
  rw [BitVec.toNat_shiftLeft, Nat.shiftLeft_eq, BitVec.toNat_ofNat]
  omega

/-! ## The flag as a byte (R16, R98) -/

theorem flagByte_decide (c : Prop) [Decidable c] : flagByte (decide c) = if c then 1 else 0 := by
  simp only [flagByte, decide_eq_true_eq]

/-- A bit as the byte VF receives, by division (R107, R109). -/
theorem flagByte_getLsbD (x : Byte) (k : Nat) : flagByte (x.getLsbD k) = BitVec.ofNat 8 (x.toNat / 2 ^ k % 2) := by
  rw [BitVec.getLsbD, Nat.testBit_eq_decide_div_mod_eq, flagByte_decide]
  rcases Nat.mod_two_eq_zero_or_one (x.toNat / 2 ^ k) with h | h <;> rw [h] <;> rfl

theorem flagByte_shiftedOutRight (x : Byte) : flagByte (shiftedOutRight x) = BitVec.ofNat 8 (x.toNat % 2) := by
  rw [shiftedOutRight, flagByte_getLsbD, Nat.pow_zero, Nat.div_one]

theorem flagByte_shiftedOutLeft (x : Byte) : flagByte (shiftedOutLeft x) = BitVec.ofNat 8 (x.toNat / 128) := by
  have hbit : x.toNat / 2 ^ 7 < 2 := by omega
  rw [shiftedOutLeft, flagByte_getLsbD, Nat.mod_eq_of_lt hbit]
  rfl

/-! ## What a write of the result changes (R98) -/

/-- A write of one register, with the byte it receives given in the terms of a statement. -/
theorem State.onlyRegs_setV (s : State) (x : Reg) {b c : Byte} (hresult : c = b) :
    OnlyRegs s (s.setV x b) fun r => if r = x then c else s.getV r := by
  subst hresult
  exact ⟨rfl, fun r => s.getV_setV x r c⟩

/-- The same for a write of VF and then a result. -/
theorem State.onlyRegs_setVFThen (s : State) (x : Reg) {f : Bool} {b c d : Byte} (hresult : c = b)
    (hflag : flagByte f = d) :
    OnlyRegs s (s.setVFThen f x b) fun r => if r = x then c else if r = VF then d else s.getV r := by
  subst hresult hflag
  exact ⟨s.setVFThen_only f x c, fun r => s.getV_setVFThen f x r c⟩

/-! ## Loads, arithmetic and logic (R99–R109) -/

/-- Settles O30: both write V[X] alone. -/
theorem registerLoads : Obligations.RegisterLoads := by
  unfold Obligations.RegisterLoads
  exact fun s x y nn => ⟨⟨_, rfl, s.onlyRegs_setV x rfl⟩, ⟨_, rfl, s.onlyRegs_setV x rfl⟩⟩

/-- Settles O31: all four write V[X] alone, the first with the wrapped sum. -/
theorem flaglessArithmetic : Obligations.FlaglessArithmetic := by
  unfold Obligations.FlaglessArithmetic
  intro s x y nn
  exact ⟨⟨_, rfl, s.onlyRegs_setV x (ofNat_toNat_add _ _)⟩, ⟨_, rfl, s.onlyRegs_setV x rfl⟩,
    ⟨_, rfl, s.onlyRegs_setV x rfl⟩, ⟨_, rfl, s.onlyRegs_setV x rfl⟩⟩

/-- Settles O32: VF receives the carry before V[X] receives the sum. -/
theorem additionSetsCarry : Obligations.AdditionSetsCarry := by
  unfold Obligations.AdditionSetsCarry
  rintro s x y _ _ rfl rfl
  exact ⟨_, rfl, s.onlyRegs_setVFThen x (ofNat_toNat_add _ _) (flagByte_decide _)⟩

/-- Settles O33: the two are one subtraction with its operands exchanged. -/
theorem subtractionsSetNoBorrow : Obligations.SubtractionsSetNoBorrow := by
  unfold Obligations.SubtractionsSetNoBorrow
  rintro s x y _ _ rfl rfl
  exact ⟨⟨_, rfl, s.onlyRegs_setVFThen x (ofNat_toNat_sub _ _) (flagByte_decide _)⟩,
    ⟨_, rfl, s.onlyRegs_setVFThen x (ofNat_toNat_sub _ _) (flagByte_decide _)⟩⟩

/-- Settles O34: VF receives bit 0 or bit 7 before V[X] receives the shifted byte. -/
theorem shiftsSetVF : Obligations.ShiftsSetVF := by
  unfold Obligations.ShiftsSetVF
  rintro s x y _ rfl
  exact ⟨⟨_, rfl, s.onlyRegs_setVFThen x (ofNat_toNat_ushiftRight_one _) (flagByte_shiftedOutRight _)⟩,
    ⟨_, rfl, s.onlyRegs_setVFThen x (ofNat_toNat_shiftLeft_one _) (flagByte_shiftedOutLeft _)⟩⟩

/-! ## The random byte (R111) -/

/-- Settles O35: what a draw writes to V[X] is the drawn byte under the mask, whatever byte it is. -/
theorem randomUnderTheMask : Obligations.RandomUnderTheMask := by
  unfold Obligations.RandomUnderTheMask
  intro s x nn
  have hread (r : Reg) := s.drawByte.2.getV_setV x r (s.drawByte.1 &&& nn)
  have hx : (s.drawByte.2.setV x (s.drawByte.1 &&& nn)).getV x = Config.randomByte s.draws &&& nn :=
    (hread x).trans (if_pos rfl)
  refine ⟨s.drawByte.2.setV x (s.drawByte.1 &&& nn), rfl, rfl, hx, fun k hk => ?_, fun r hr => ?_⟩
  · rw [hx, BitVec.getLsbD_and, hk, Bool.and_false]
  · exact (hread r).trans (if_neg hr)

end Sys2Proof.Machine

namespace Sys2Proof.Machine

variable {s : State} {i : Instr} {p : PlaneId}

/-! ## Selected planes (R26, R113) -/

/-- The planes a mask selects, in the terms of the statements. -/
theorem mem_planes_iff_selected (m : BitVec 2) : p ∈ planes m ↔ selected m p := by
  cases p <;> exact mem_planes m _

/-- An operation on some planes keeps every pixel of the others (R113). -/
theorem Display.pixel_onPlanes_of_notMem (d : Display) {ps : List PlaneId} (f : PlaneBits → PlaneBits) (hn : ps.Nodup)
    (hp : p ∉ ps) (x y : Nat) : (d.onPlanes ps f).pixel p x y = d.pixel p x y := by
  rw [Display.pixel, Display.plane_onPlanes _ _ _ hn, if_neg hp, Display.pixel]

/-- Settles O56: the low two bits of a byte are its remainder by 4. -/
theorem planeSelection : Obligations.PlaneSelection := by
  unfold Obligations.PlaneSelection
  exact fun s x => ⟨s.setPlaneMask ((s.getV x).setWidth 2), rfl, rfl, BitVec.toNat_setWidth 2 (s.getV x)⟩

/-! ## Resolution, clear and scroll (R118, R120–R125) -/

/-- Settles O55: the two differ in the mode alone, and a dark display has every cell 0. -/
theorem resolutionChangesClearEverything : Obligations.ResolutionChangesClearEverything := by
  unfold Obligations.ResolutionChangesClearEverything
  intro s i b hi
  have hexec : exec i s = .next (s.setResolution b) := by
    rcases hi with ⟨rfl, rfl⟩ | ⟨rfl, rfl⟩ <;> rfl
  exact ⟨s.setResolution b, hexec, rfl, fun x y => (Display.cell_eq_zero _ x y).mpr fun p => pixel_dark p x y, rfl, rfl⟩

/-- Settles O53: a pixel after Clear is the old one, masked where Clear reaches. -/
theorem clearDarkensTheSelectedPlanes : Obligations.ClearDarkensTheSelectedPlanes := by
  unfold Obligations.ClearDarkensTheSelectedPlanes
  intro s
  refine ⟨s.present (s.display.clear s.width s.height s.planeMask), rfl, rfl, fun p x y => ?_⟩
  have hpix := s.display.pixel_clear s.width s.height s.planeMask p x y s.width_le.2
  rw [← mem_planes_iff_selected, State.present_display, hpix]
  refine ⟨fun hsel hx hy => ?_, fun hout => ?_⟩
  · simp [hsel, hx, hy]
  · have hmask : (decide (p ∈ planes s.planeMask) && decide (x < s.width) && decide (y < s.height)) = false := by
      simpa [and_assoc] using hout
    rw [hmask, Bool.not_false, Bool.and_true]

/-- A pixel after a scroll of the current screen (R116). -/
theorem State.pixel_scroll (s : State) (dx dy : Int) (p : PlaneId) (x y : Nat) :
    (s.scroll dx dy).display.pixel p x y =
      if p ∈ planes s.planeMask ∧ x < s.width ∧ y < s.height then
        (decide (0 ≤ (x : Int) - dx ∧ (x : Int) - dx < s.width ∧ 0 ≤ (y : Int) - dy ∧ (y : Int) - dy < s.height) &&
          s.display.pixel p ((x : Int) - dx).toNat ((y : Int) - dy).toNat)
      else s.display.pixel p x y :=
  Display.pixel_shift _ _ _ _ _ _ _ _ _ s.width_le.2 s.height_le.2

/-- The scrolled pixel of a selected plane on the screen whose source is on the screen too (R116). -/
theorem State.pixel_scroll_inside {dx dy : Int} {x y sx sy : Nat} (hsel : p ∈ planes s.planeMask) (hx : x < s.width)
    (hy : y < s.height) (hsx : (sx : Int) = x - dx) (hsy : (sy : Int) = y - dy) (hw : sx < s.width)
    (hh : sy < s.height) : (s.scroll dx dy).display.pixel p x y = s.display.pixel p sx sy := by
  have hon : 0 ≤ (x : Int) - dx ∧ (x : Int) - dx < s.width ∧ 0 ≤ (y : Int) - dy ∧ (y : Int) - dy < s.height := by omega
  rw [State.pixel_scroll, if_pos ⟨hsel, hx, hy⟩, decide_eq_true hon, Bool.true_and, ← hsx, ← hsy,
    Int.toNat_natCast, Int.toNat_natCast]

/-- The one whose source is off the screen (R116). -/
theorem State.pixel_scroll_fill {dx dy : Int} {x y : Nat} (hsel : p ∈ planes s.planeMask) (hx : x < s.width)
    (hy : y < s.height)
    (hoff : ¬∃ sx sy : Nat, (sx : Int) = x - dx ∧ (sy : Int) = y - dy ∧ sx < s.width ∧ sy < s.height) :
    (s.scroll dx dy).display.pixel p x y = false := by
  have hout : ¬(0 ≤ (x : Int) - dx ∧ (x : Int) - dx < s.width ∧ 0 ≤ (y : Int) - dy ∧ (y : Int) - dy < s.height) :=
    fun hon => hoff ⟨((x : Int) - dx).toNat, ((y : Int) - dy).toNat, by omega⟩
  rw [State.pixel_scroll, if_pos ⟨hsel, hx, hy⟩, decide_eq_false hout, Bool.false_and]

/-- A pixel of another plane or outside the screen (R116). -/
theorem State.pixel_scroll_outside {dx dy : Int} {x y : Nat}
    (hout : ¬(p ∈ planes s.planeMask ∧ x < s.width ∧ y < s.height)) :
    (s.scroll dx dy).display.pixel p x y = s.display.pixel p x y :=
  (s.pixel_scroll dx dy p x y).trans (if_neg hout)

/-- Settles O54: the four are one scroll with their amounts. -/
theorem scrollsMoveTheSelectedPlanes : Obligations.ScrollsMoveTheSelectedPlanes := by
  unfold Obligations.ScrollsMoveTheSelectedPlanes
  intro s i dx dy hi
  have hexec : exec i s = .next (s.scroll dx dy) := by
    rcases hi with ⟨n, rfl, rfl, rfl⟩ | ⟨n, rfl, rfl, rfl⟩ | ⟨rfl, rfl, rfl⟩ | ⟨rfl, rfl, rfl⟩ <;> rfl
  refine ⟨s.scroll dx dy, hexec, rfl, fun p x y => ?_⟩
  rw [← mem_planes_iff_selected]
  exact ⟨fun hsel hx hy => ⟨fun sx sy => State.pixel_scroll_inside hsel hx hy, State.pixel_scroll_fill hsel hx hy⟩,
    State.pixel_scroll_outside⟩

/-! ## The sprite (R117, R119) -/

/-- A bit of a word, by the byte it stands in (R50). -/
theorem getLsbD_wordOfBytes (hi lo : Byte) (k : Nat) :
    (wordOfBytes hi lo).getLsbD k = if k < 8 then lo.getLsbD k else hi.getLsbD (k - 8) := by
  rw [wordOfBytes, BitVec.getLsbD_append]

/-- The sprite's pixels, in the terms of the statements (R117, D12). -/
theorem State.spritePixel_eq_spriteLit (s : State) (n : Nibble) (r c : Nat) :
    s.spritePixel n r c = spriteLit s n r c := by
  unfold State.spritePixel spriteLit
  split
  · rw [State.fetch16, getLsbD_wordOfBytes]
    by_cases hc : c < 8
    · rw [if_pos hc, if_neg (by omega), Nat.sub_right_comm]
    · rw [if_neg hc, if_pos (by omega)]
  · rfl

theorem one_le_spriteBytes (n : Nibble) : 1 ≤ spriteBytes n := by
  unfold spriteBytes
  split
  · decide
  · bv_omega

/-- The address of the sprite's last byte (R119). -/
theorem State.addrI_spriteBytes (s : State) (n : Nibble) :
    s.addrI (spriteBytes n - 1) = s.i.toNat + spriteBytes n - 1 :=
  (Nat.add_sub_assoc (one_le_spriteBytes n) _).symm

section
variable {x y : Reg} {n : Nibble} {a b : Nat}

/-- The places a draw toggles are the covered ones of the selected planes. -/
theorem State.mem_drawToggles_iff :
    (p, a, b) ∈ (s.spriteToggles n (s.getV x).toNat (s.getV y).toNat (planes s.planeMask)).map
        (toggleTarget s.width s.height) ↔
      selected s.planeMask p ∧ spriteCovers s n (s.getV x).toNat (s.getV y).toNat a b := by
  simp only [State.mem_spriteToggles, mem_planes_iff_selected, State.spritePixel_eq_spriteLit]
  rfl

/-- A draw inverts the covered pixels of the selected planes (R115, R119). -/
theorem State.pixel_drawn_covered
    (hcov : selected s.planeMask p ∧ spriteCovers s n (s.getV x).toNat (s.getV y).toNat a b) :
    (s.drawn x y n).1.pixel p a b = !s.display.pixel p a b := by
  rw [(s.drawn_spec x y n).1, decide_eq_true (State.mem_drawToggles_iff.mpr hcov), Bool.xor_true]

/-- A draw keeps every other pixel. -/
theorem State.pixel_drawn_uncovered
    (hout : ¬(selected s.planeMask p ∧ spriteCovers s n (s.getV x).toNat (s.getV y).toNat a b)) :
    (s.drawn x y n).1.pixel p a b = s.display.pixel p a b := by
  rw [(s.drawn_spec x y n).1, decide_eq_false (mt State.mem_drawToggles_iff.mp hout), Bool.xor_false]

/-- A draw hits when a covered pixel of a selected plane was lit (R115). -/
theorem State.drawn_hit_iff :
    (s.drawn x y n).2 = true ↔ ∃ p a b, selected s.planeMask p ∧
      spriteCovers s n (s.getV x).toNat (s.getV y).toNat a b ∧ s.display.pixel p a b = true := by
  simp only [(s.drawn_spec x y n).2, State.mem_drawToggles_iff, and_assoc]

/-! ## DXYN (R119) -/

/-- The state a DXYN leaves when its sprite is in memory: what was drawn, and VF. -/
def State.afterDraw (s : State) (x y : Reg) (n : Nibble) : State :=
  (s.present (s.drawn x y n).1).setV VF (flagByte (s.drawn x y n).2)

theorem exec_drw_of_le (hlast : s.i.toNat + spriteBytes n - 1 ≤ maxAddr) :
    exec (.drw x y n) s = .next (s.afterDraw x y n) :=
  if_pos (by rwa [State.addrI_spriteBytes])

theorem exec_drw_of_lt (hpast : maxAddr < s.i.toNat + spriteBytes n - 1) :
    exec (.drw x y n) s = .next (haltedBy s (.outOfBounds .read (s.i.toNat + spriteBytes n - 1)) (s.pc - 2)) := by
  rw [← State.addrI_spriteBytes] at hpast ⊢
  exact if_neg (Nat.not_le.mpr hpast)

@[simp] theorem State.afterDraw_display (s : State) (x y : Reg) (n : Nibble) :
    (s.afterDraw x y n).display = (s.drawn x y n).1 := rfl

theorem State.getV_afterDraw_of_ne {r : Reg} (hr : r ≠ VF) : (s.afterDraw x y n).getV r = s.getV r :=
  (State.getV_setV _ VF r _).trans (if_neg hr)

theorem State.getV_afterDraw_VF : (s.afterDraw x y n).getV VF = flagByte (s.drawn x y n).2 :=
  (State.getV_setV _ VF VF _).trans (if_pos rfl)

theorem flagByte_eq_one_iff {c : Bool} : flagByte c = 1 ↔ c = true := by
  cases c <;> decide

/-- A draw whose registers are not VF leaves the place it draws at, so a second one covers what the first did. -/
theorem State.afterDraw_covers_iff (hx : x ≠ VF) (hy : y ≠ VF) {t : State} (ht : t = s.afterDraw x y n) :
    (selected t.planeMask p ∧ spriteCovers t n (t.getV x).toNat (t.getV y).toNat a b) ↔
      (selected s.planeMask p ∧ spriteCovers s n (s.getV x).toNat (s.getV y).toNat a b) := by
  subst ht
  rw [State.getV_afterDraw_of_ne hx, State.getV_afterDraw_of_ne hy]
  rfl

end

/-- Settles O57: the toggles reach the covered pixels, each once, and VF is the flag of the hit. -/
theorem drawInvertsTheSprite : Obligations.DrawInvertsTheSprite := by
  unfold Obligations.DrawInvertsTheSprite
  rintro s x y n _ _ _ rfl rfl rfl
  refine ⟨fun hlast => ?_, exec_drw_of_lt⟩
  refine ⟨s.afterDraw x y n, exec_drw_of_le hlast, rfl, fun _ _ _ => State.pixel_drawn_covered,
    fun _ _ _ => State.pixel_drawn_uncovered, fun _ => State.getV_afterDraw_of_ne, fun hlit => ?_, fun hdark => ?_⟩
  · rw [State.getV_afterDraw_VF, State.drawn_hit_iff.mpr hlit]
    rfl
  · have hmiss : (s.drawn x y n).2 = false := by
      refine Bool.eq_false_iff.mpr fun hhit => ?_
      obtain ⟨p, a, b, hsel, hcov, hlit⟩ := State.drawn_hit_iff.mp hhit
      exact Bool.false_ne_true ((hdark p a b hsel hcov).symm.trans hlit)
    rw [State.getV_afterDraw_VF, hmiss]
    rfl

/-- Settles O58: the second draw inverts the same pixels back, and a covered pixel is lit for it exactly when it was
dark for the first. -/
theorem drawTwiceRestores : Obligations.DrawTwiceRestores := by
  unfold Obligations.DrawTwiceRestores
  rintro s x y n _ _ hx hy rfl rfl hfit
  have hlast : s.i.toNat + spriteBytes n - 1 ≤ maxAddr := Nat.sub_le_sub_right hfit 1
  obtain ⟨t, ht⟩ : ∃ t, t = s.afterDraw x y n := ⟨_, rfl⟩
  have hsame {p a b} := State.afterDraw_covers_iff (p := p) (a := a) (b := b) hx hy ht
  have hfirst {p a b} (hcov : selected s.planeMask p ∧ spriteCovers s n (s.getV x).toNat (s.getV y).toNat a b) :
      t.display.pixel p a b = !s.display.pixel p a b := by
    rw [ht]
    exact State.pixel_drawn_covered hcov
  refine ⟨t, t.afterDraw x y n, ht ▸ exec_drw_of_le hlast, exec_drw_of_le (by rw [ht]; exact hlast),
    fun p a b => ?_, ?_⟩
  · rw [State.afterDraw_display]
    by_cases hcov : selected s.planeMask p ∧ spriteCovers s n (s.getV x).toNat (s.getV y).toNat a b
    · rw [State.pixel_drawn_covered (hsame.mpr hcov), hfirst hcov, Bool.not_not]
    · rw [State.pixel_drawn_uncovered (mt hsame.mp hcov), ht]
      exact State.pixel_drawn_uncovered hcov
  · rw [State.getV_afterDraw_VF, flagByte_eq_one_iff, State.drawn_hit_iff]
    refine exists_congr fun p => exists_congr fun a => exists_congr fun b => ?_
    rw [← and_assoc, ← and_assoc, hsame]
    exact and_congr_right fun hcov => by rw [hfirst hcov, Bool.not_eq_true']

/-! ## Planes that are not selected (R113, D7) -/

/-- A draw keeps every pixel of a plane that is not selected (R119). -/
theorem State.pixel_drawn_of_notMem (hp : p ∉ planes s.planeMask) (x y : Reg) (n : Nibble) (a b : Nat) :
    (s.drawn x y n).1.pixel p a b = s.display.pixel p a b :=
  State.pixel_drawn_uncovered fun hcov => hp ((mem_planes_iff_selected _).mpr hcov.1)

/-- Settles O59: of the display instructions but the mode changes, each works on the selected planes; the others keep
the display. -/
theorem unselectedPlanesAreUntouched : Obligations.UnselectedPlanesAreUntouched := by
  unfold Obligations.UnselectedPlanesAreUntouched
  refine ⟨rfl, rfl, rfl, rfl, fun s t i p h hlores hhires hp x y => ?_⟩
  cases hi : mutatesDisplay i
  · rw [((exec_frame h).screen hi).1]
  cases i
  case lores => exact absurd rfl hlores
  case hires => exact absurd rfl hhires
  case cls => cases h; exact Display.pixel_onPlanes_of_notMem _ _ (nodup_planes _) hp x y
  case scd | scu | scr | scl => cases h; exact State.pixel_scroll_outside fun hin => hp hin.1
  case drw vx vy n =>
    rcases exec_next h with ⟨k, rfl⟩ | ⟨-, rfl⟩
    · rfl
    · exact State.pixel_drawn_of_notMem hp vx vy n x y
  all_goals cases hi

end Sys2Proof.Machine

namespace Sys2Proof.Machine

variable {s : State}

/-! ## Key skips (R127, R128, R174) -/

/-- The key a register names is the one numbered by its value modulo 16 (R127). -/
theorem State.lowNibble_eq_of_toNat {x : Reg} {k : Nibble} (hk : k.toNat = (s.getV x).toNat % 16) :
    s.lowNibble x = k :=
  BitVec.eq_of_toNat_eq ((BitVec.toNat_setWidth 4 (s.getV x)).trans hk.symm)

/-- What the two key skips share: each is `skipTwoIf` on its own condition, and advances by 2 with no look-ahead, so
the one fault is that of the advance (R127, D3). -/
theorem State.skipTwoIf_skipsTwo {b : Bool} {c : Prop} (hc : b = true ↔ c) : SkipsTwo s c (s.skipTwoIf b) := by
  have hskip (hyes : c) : s.skipTwoIf b = s.advance 2 := if_pos (hc.mpr hyes)
  refine ⟨fun hno => if_neg (mt hc.mp hno), fun hyes hpast => ?_, fun hyes hroom => ?_⟩
  · rw [hskip hyes]
    exact if_neg (Nat.not_le.mpr hpast)
  · rw [hskip hyes]
    exact if_pos hroom

/-- Settles O42: both test the key of the low nibble, one for pressed and the other for not pressed. -/
theorem keySkips : Obligations.KeySkips := by
  unfold Obligations.KeySkips
  intro s x k hk
  obtain rfl := State.lowNibble_eq_of_toNat hk
  exact ⟨State.skipTwoIf_skipsTwo Iff.rfl, State.skipTwoIf_skipsTwo (iff_of_eq (Bool.not_eq_true' _))⟩

/-! ## The key wait (R129) -/

/-- Settles O10: FX0A is `waitFor`, which writes the waiting register alone. -/
theorem keyWaitBegins : Obligations.KeyWaitBegins := by
  unfold Obligations.KeyWaitBegins
  exact fun s x => rfl

/-! ## Timers (R130–R132) -/

/-- Settles O44: FX07 writes V[X] alone, and each of the others the timer it names. -/
theorem timerInstructions : Obligations.TimerInstructions := by
  unfold Obligations.TimerInstructions
  exact fun s x => ⟨⟨_, rfl, s.onlyRegs_setV x rfl⟩, rfl, rfl⟩

end Sys2Proof.Machine

namespace Sys2Proof.Machine

variable {s : State}

/-! ## What a write of a range leaves (R49, R139–R144) -/

/-- What the writes of a range of bytes, registers and flag-bank entries share: with `f j` as its j-th value, place `m`
holds `f (m - k)` when it is one of the `n + 1` places from `k` upward, and else what it held. -/
theorem ite_getD_eq_ite_range {bs : List Byte} {n : Nat} {f : Nat → Byte} (hlen : bs.length = n + 1)
    (hget : ∀ j < n + 1, bs[j]? = some (f j)) (k m : Nat) (old : Byte) :
    (if k ≤ m then bs.getD (m - k) old else old) = if k ≤ m ∧ m ≤ k + n then f (m - k) else old := by
  by_cases hlo : k ≤ m
  · rw [if_pos hlo]
    by_cases hhi : m ≤ k + n
    · rw [if_pos ⟨hlo, hhi⟩, List.getD_eq_getElem?_getD, hget _ (by omega), Option.getD_some]
    · rw [if_neg fun hin => hhi hin.2, List.getD_eq_default _ _ (by omega)]
  · rw [if_neg hlo, if_neg fun hin => hlo hin.1]

/-- A register range stored from `a` upward changes those bytes of memory alone (R139, R141). -/
theorem State.onlyMem_setBytes_regsFrom (s : State) (a k n : Nat) :
    OnlyMem s (s.setBytes a (s.regsFrom k (n + 1))) fun c =>
      if a ≤ c ∧ c ≤ a + n then s.getV (BitVec.ofNat 4 (k + (c - a))) else s.byteAt c :=
  ⟨s.setBytes_only a _, fun c =>
    (s.byteAt_setBytes a c _).trans
      (ite_getD_eq_ite_range (s.length_regsFrom k _) (s.getElem?_regsFrom k _) a c _)⟩

/-- A range of registers written with `n + 1` bytes, the j-th of them `f j`, changes those registers alone (R140, R142,
R144). -/
theorem State.onlyRegs_setRegs {bs : List Byte} {k n : Nat} {f : Nat → Byte} (s : State) (hlen : bs.length = n + 1)
    (hget : ∀ j < n + 1, bs[j]? = some (f j)) (hfit : k + n < 16) :
    OnlyRegs s (s.setRegs k bs) fun r => if k ≤ r.toNat ∧ r.toNat ≤ k + n then f (r.toNat - k) else s.getV r :=
  ⟨s.setRegs_only k bs, fun r =>
    (s.getV_setRegs k bs (by omega) r).trans (ite_getD_eq_ite_range hlen hget k r.toNat _)⟩

/-! ## Range transfers at I (R139–R142) -/

/-- A register range whose last address is past 0xFFFF is not stored (R47, D2). -/
theorem State.storeRange_of_lt {k n : Nat} (hpast : maxAddr < s.i.toNat + n) :
    s.storeRange k n = .next (haltedBy s (.outOfBounds .write (s.i.toNat + n)) (s.pc - 2)) :=
  if_neg (Nat.not_le.mpr hpast)

/-- A register range whose last address is past 0xFFFF is not loaded (R47, D2). -/
theorem State.loadRange_of_lt {k n : Nat} (hpast : maxAddr < s.i.toNat + n) :
    s.loadRange k n = .next (haltedBy s (.outOfBounds .read (s.i.toNat + n)) (s.pc - 2)) :=
  if_neg (Nat.not_le.mpr hpast)

/-- Settles O49: each form is one `storeRange`, which stores the whole range or takes the fault. -/
theorem registerStores : Obligations.RegisterStores := by
  unfold Obligations.RegisterStores
  intro s i lo n hform
  have hexec : exec i s = s.storeRange lo n := by
    rcases hform with ⟨x, rfl, rfl, rfl⟩ | ⟨x, y, rfl, rfl, rfl⟩ <;> rfl
  rw [hexec]
  exact ⟨fun hlast => ⟨_, State.storeRange_of_le hlast, s.onlyMem_setBytes_regsFrom _ lo n⟩, State.storeRange_of_lt⟩

/-- Settles O50: each form is one `loadRange` of a range that lies inside the register file. -/
theorem registerLoadsFromMemory : Obligations.RegisterLoadsFromMemory := by
  unfold Obligations.RegisterLoadsFromMemory
  intro s i lo n hform
  obtain ⟨hload, hfit⟩ : exec i s = s.loadRange lo n ∧ lo + n < 16 := by
    rcases hform with ⟨x, rfl, rfl, rfl⟩ | ⟨x, y, rfl, rfl, rfl⟩
    · exact ⟨rfl, by omega⟩
    · exact ⟨rfl, range_fits x y⟩
  rw [hload]
  exact ⟨fun hlast => ⟨_, State.loadRange_of_le hlast,
    s.onlyRegs_setRegs (s.length_bytesFrom _ _) (s.getElem?_bytesFrom _ _) hfit⟩, State.loadRange_of_lt⟩

/-! ## The three digits (R138) -/

/-- Three bytes stored from `a` upward change those bytes of memory alone (R49). -/
theorem State.onlyMem_setBytes_three (s : State) (a : Nat) (b₀ b₁ b₂ : Byte) :
    OnlyMem s (s.setBytes a [b₀, b₁, b₂]) fun c =>
      if c = a then b₀ else if c = a + 1 then b₁ else if c = a + 2 then b₂ else s.byteAt c := by
  refine ⟨s.setBytes_only a _, fun c => ?_⟩
  dsimp only
  split_ifs with h₀ h₁ h₂
  · subst h₀; exact State.byteAt_setBytes_inside (k := 0) (by simp)
  · subst h₁; exact State.byteAt_setBytes_inside (k := 1) (by simp)
  · subst h₂; exact State.byteAt_setBytes_inside (k := 2) (by simp)
  · exact State.byteAt_setBytes_outside (by simp only [List.length_cons, List.length_nil]; omega)

/-- Settles O48: the bound of the last digit is checked first, and the digits stored are those of `bcdDigits`. -/
theorem bcdStoresThreeDigits : Obligations.BcdStoresThreeDigits := by
  unfold Obligations.BcdStoresThreeDigits
  rintro s x _ rfl
  exact ⟨fun hlast => ⟨_, if_pos hlast, s.onlyMem_setBytes_three _ _ _ _⟩,
    fun hpast => if_neg (Nat.not_le.mpr hpast)⟩

/-! ## The flag bank (R143, R144) -/

/-- Settles O51: a range from 0 upward has the register's own number as its offset, and every X is inside both files. -/
theorem flagBankTransfers : Obligations.FlagBankTransfers := by
  unfold Obligations.FlagBankTransfers
  intro s x
  refine ⟨⟨s.setFlags 0 (s.regsFrom 0 (x.toNat + 1)), rfl, s.setFlags_only 0 _, fun r => ?_⟩,
    ⟨s.setRegs 0 (s.flagsFrom 0 (x.toNat + 1)), rfl, ?_⟩⟩
  · rw [State.getFlag_setFlags _ _ _ (by rw [State.length_regsFrom]; omega),
      ite_getD_eq_ite_range (s.length_regsFrom 0 _) (s.getElem?_regsFrom 0 _)]
    simp
  · have hregs := s.onlyRegs_setRegs (k := 0) (s.length_flagsFrom 0 _) (s.getElem?_flagsFrom 0 (x.toNat + 1))
      (by omega)
    simpa using hregs

/-! ## The index register (R133–R135) -/

/-- The step of the 4-byte form when `pc` can be advanced past it (R82, R134). -/
theorem step_longWord (hrun : Running s) (hw : s.fetch16 s.pc.toNat = longWord) (hroom : s.pc.toNat + 4 ≤ maxAddr) :
    step s = .next ((s.setPc (BitVec.ofNat 16 (s.pc.toNat + 4))).setI (s.fetch16 (s.pc.toNat + 2))) := by
  have hclass : classify longWord (s.fetchSecond s.pc.toNat longWord) =
      .ok (.ldILong (s.fetch16 (s.pc.toNat + 2))) := by
    rw [State.fetchSecond_longWord, classify_longWord]
  exact step_ok hrun (State.fetchAdvance_of_classify hw.symm hclass hroom)

/-- Settles O45: the two meanings set I, and the fetch of the bytes F0 00 reads NNNN after them. -/
theorem indexLoads : Obligations.IndexLoads := by
  unfold Obligations.IndexLoads
  refine ⟨fun s nnn => ?_, fun s nnnn => rfl, fun s hrun hhi hlo hroom => ?_⟩
  · rw [← targetNNN_eq_ofNat]
    rfl
  · exact step_longWord hrun ((s.fetch16_eq_longWord _).mpr ⟨hhi, hlo⟩) hroom

/-- The sum as a number, which wraps at 16 bits (R135, D15). -/
theorem State.indexPlus_eq_ofNat (s : State) (x : Reg) :
    s.indexPlus x = BitVec.ofNat 16 ((s.i.toNat + (s.getV x).toNat) % 65536) := by
  rw [State.indexPlus]
  bv_omega

/-- Settles O46: FX1E writes the wrapped sum to I alone. -/
theorem indexAddition : Obligations.IndexAddition := by
  unfold Obligations.IndexAddition
  intro s x
  rw [← s.indexPlus_eq_ofNat]
  rfl

/-! ## Glyph addresses (R136, R137) -/

/-- Allowed parameters place both fonts below the load address (R168). -/
theorem fontSmallBase_le_of_wf {p : Params} (hwf : p.wf = true) : p.fontSmallBase + 240 ≤ 0x200 :=
  of_decide_eq_true (Bool.and_eq_true_iff.mp hwf).2

/-- The digit a register names is its value modulo 16 (R136, D16). -/
theorem State.toNat_lowNibble (s : State) (x : Reg) : (s.lowNibble x).toNat = (s.getV x).toNat % 16 :=
  BitVec.toNat_setWidth 4 (s.getV x)

/-- A small glyph lies below the load address, so its address does not wrap (R136). -/
theorem State.toNat_smallGlyph (hwf : s.params.wf = true) (d : Nibble) :
    (s.smallGlyph d).toNat = s.params.fontSmallBase + 5 * d.toNat := by
  have hbase := fontSmallBase_le_of_wf hwf
  exact Nat.mod_eq_of_lt (by omega)

/-- So does a big glyph (R137). -/
theorem State.toNat_bigGlyph (hwf : s.params.wf = true) (d : Nibble) :
    (s.bigGlyph d).toNat = s.params.fontSmallBase + 80 + 10 * d.toNat := by
  have hbase := fontSmallBase_le_of_wf hwf
  exact Nat.mod_eq_of_lt (by simp only [fontBigBase]; omega)

/-- Settles O47: each writes the address of the low digit's glyph to I alone. -/
theorem fontInstructions : Obligations.FontInstructions := by
  unfold Obligations.FontInstructions
  intro s x hwf
  rw [← s.toNat_lowNibble x]
  exact ⟨⟨_, rfl, rfl, State.toNat_smallGlyph hwf _⟩, ⟨_, rfl, rfl, State.toNat_bigGlyph hwf _⟩⟩

end Sys2Proof.Machine

namespace Sys2Proof

open Sys2Proof.Machine

variable {s : State}

/-! ## The host's operations keep the invariant -/

/-- What `init` leaves meets the invariant, whatever it keeps of the keys and the draws (R167). -/
theorem StateInv.initial {p : Params} (hp : p.wf = true) (keys : Vector Bool 16) (draws : Nat) :
    StateInv (State.initial p keys draws) := by
  have hinit : State.initial p keys draws = (State.initial p keys draws).init := rfl
  obtain ⟨-, -, -, hpopped, hdepth, -, -, -, hdark, -⟩ := initLeavesTheResetValues _ (.inr ⟨_, hinit⟩)
  exact
    { params := hp
      mem := Memory.wf_nil p
      depth := hdepth
      count := Nat.zero_le _
      popped := fun k _ => hpopped k
      offscreen := fun x y _ => hdark x y
      reason := rfl
      idle := fun _ => rfl }

theorem StateInv.init (hs : StateInv s) : StateInv s.init := StateInv.initial hs.params s.keys s.draws

/-- An image that `load` takes ends at or below 0xFFFF (R169). -/
theorem StateInv.loadedImage (hs : StateInv s) {image : List Byte} (hfits : image.length ≤ 0xFE00) :
    StateInv (s.setBytes loadAddr image) :=
  hs.setBytes (Nat.add_le_add_left hfits loadAddr)

theorem StateInv.withKeys (hs : StateInv s) (keys : Vector Bool 16) : StateInv (s.withKeys keys) := { hs with }

theorem StateInv.tick (hs : StateInv s) : StateInv s.tick := { hs with }

theorem StateInv.ackFrame (hs : StateInv s) : StateInv s.ackFrame := { hs with }

end Sys2Proof

namespace Sys2Proof.Machine

variable {h h₁ h' : Session} {op : HostOp} {ops : List HostOp}

/-- An answered host operation keeps the invariant. -/
theorem Session.apply_keeps_inv (hs : StateInv h.machine) (e : h.apply op = .next h') : StateInv h'.machine := by
  rcases Session.apply_next e with
    ⟨-, rfl⟩ | ⟨_, -, -, hfits, rfl⟩ | ⟨keys, s, -, hstep, rfl⟩ | ⟨-, rfl⟩ | ⟨-, rfl⟩ | ⟨-, rfl⟩
  · exact hs.init
  · exact hs.loadedImage hfits
  · exact stepKeepsTheInvariant _ s (hs.withKeys keys) hstep
  · exact hs.tick
  · exact hs.ackFrame
  · exact hs

/-- A step of the protocol is the machine's step with the keys given (R161). -/
theorem Session.apply_step {keys : Vector Bool 16} {s : State}
    (e : Sys2Proof.Machine.step (h.machine.withKeys keys) = .next s) :
    h.apply (.step keys) = .next { machine := s, loadOpen := false } := by
  rw [Session.apply, Session.step, e]

/-- From the invariant an operation is answered, or is a load that is refused for its size or out of its window. -/
theorem Session.apply_answers_or_load_refused (hs : StateInv h.machine) (op : HostOp) :
    (∃ h', h.apply op = .next h') ∨ ∃ image, op = .load image ∧
      ((h.loadOpen = true ∧ 0xFE00 < image.length ∧ h.apply op = .refused .imageTooLarge) ∨
        (h.loadOpen = false ∧ h.apply op = .refused .loadNotAllowed)) := by
  cases op with
  | load image =>
    rcases h.load_cases image with ⟨-, -, hload⟩ | hlarge | hclosed
    · exact .inl ⟨_, hload⟩
    · exact .inr ⟨image, rfl, .inl hlarge⟩
    · exact .inr ⟨image, rfl, .inr hclosed⟩
  | step keys =>
    obtain ⟨s, hstep⟩ := stepAlwaysAnswers _ (hs.withKeys keys)
    exact .inl ⟨_, Session.apply_step hstep⟩
  | init | tick | ackFrame | readSurface => exact .inl ⟨_, rfl⟩

/-- A sequence goes on from the session that its first operation answers (R166). -/
theorem Session.run_cons_next (e : h.apply op = .next h₁) : h.run (op :: ops) = h₁.run ops := by
  rw [Session.run, e]

/-- A sequence ends at a refusal (R166). -/
theorem Session.run_cons_refused {r : Refusal} (e : h.apply op = .refused r) : h.run (op :: ops) = .refused r := by
  rw [Session.run, e]

/-- From the invariant a sequence ends in a session that meets it, or at a refused load. -/
theorem Session.run_keeps_inv_or_load_refused (hs : StateInv h.machine) (ops : List HostOp) :
    (∃ h', h.run ops = .next h' ∧ StateInv h'.machine) ∨
      ∃ r, h.run ops = .refused r ∧ (r = .imageTooLarge ∨ r = .loadNotAllowed) := by
  induction ops generalizing h with
  | nil => exact .inl ⟨h, rfl, hs⟩
  | cons op ops ih =>
    rcases Session.apply_answers_or_load_refused hs op with ⟨h₁, e⟩ | ⟨_, -, ⟨-, -, e⟩ | ⟨-, e⟩⟩
    · rw [Session.run_cons_next e]
      exact ih (Session.apply_keeps_inv hs e)
    · exact .inr ⟨_, Session.run_cons_refused e, .inl rfl⟩
    · exact .inr ⟨_, Session.run_cons_refused e, .inr rfl⟩

/-- Settles O23: a step answers by O22 and keeps the invariant by O21; of the other operations only a load can be
refused, and a sequence is an induction. -/
theorem sessionsKeepTheInvariant : Obligations.SessionsKeepTheInvariant := by
  unfold Obligations.SessionsKeepTheInvariant
  refine ⟨fun p hp => StateInv.initial hp _ 0, fun h op hs => ?_, fun h ops hs => ?_⟩
  · rcases Session.apply_answers_or_load_refused hs op with
      ⟨h', e⟩ | ⟨image, hop, ⟨hopen, hlarge, e⟩ | ⟨hclosed, e⟩⟩ <;> rw [e]
    · exact Session.apply_keeps_inv hs e
    · exact ⟨image, hop, .inl ⟨rfl, hopen, hlarge⟩⟩
    · exact ⟨image, hop, .inr ⟨rfl, hclosed⟩⟩
  · rcases Session.run_keeps_inv_or_load_refused hs ops with ⟨h', e, hs'⟩ | ⟨r, e, hr⟩ <;> rw [e]
    · exact hs'
    · exact hr

/-! ## A halted engine under the host (R29, R153) -/

/-- `t` is `s` with nothing changed but the timers, `redraw` and the keys: all that the host's operations other than
`init` may touch of a halted engine. -/
def OnlyTimersRedrawAndKeys (s t : State) : Prop :=
  t = { s with dt := t.dt, st := t.st, redraw := t.redraw, keys := t.keys }

variable {s t u : State}

theorem OnlyTimersRedrawAndKeys.refl (s : State) : OnlyTimersRedrawAndKeys s s := rfl

theorem OnlyTimersRedrawAndKeys.trans (hst : OnlyTimersRedrawAndKeys s t) (htu : OnlyTimersRedrawAndKeys t u) :
    OnlyTimersRedrawAndKeys s u := by
  unfold OnlyTimersRedrawAndKeys at *
  rw [htu, hst]

theorem OnlyTimersRedrawAndKeys.halted_eq (hst : OnlyTimersRedrawAndKeys s t) : t.halted = s.halted := by
  rw [hst]

theorem OnlyTimersAndRedraw.orKeys (hst : OnlyTimersAndRedraw s t) : OnlyTimersRedrawAndKeys s t := by
  unfold OnlyTimersRedrawAndKeys
  rw [hst]

/-- A step of a halted engine only takes the new keys (R80). -/
theorem Session.apply_step_of_halted (hhalt : h.machine.halted = true) (keys : Vector Bool 16) :
    h.apply (.step keys) = .next { machine := h.machine.withKeys keys, loadOpen := false } :=
  Session.apply_step (step_halted hhalt)

/-- Once the window is closed, an operation other than `init` touches only these fields of a halted engine. -/
theorem Session.apply_halted_frame (e : h.apply op = .next h') (hinit : op ≠ .init)
    (hhalt : h.machine.halted = true) (hclosed : h.loadOpen = false) :
    OnlyTimersRedrawAndKeys h.machine h'.machine := by
  by_cases hstep : ∃ keys, op = .step keys
  · obtain ⟨keys, rfl⟩ := hstep
    cases (Session.apply_step_of_halted hhalt keys).symm.trans e
    rfl
  · exact (Session.apply_closed_frame e hinit (not_exists.mp hstep) hclosed).orKeys

/-- So does a sequence of them: the halt lasts and the window stays closed from each one to the next. -/
theorem Session.run_halted_frame (e : h.run ops = .next h') (hinit : .init ∉ ops)
    (hhalt : h.machine.halted = true) (hclosed : h.loadOpen = false) :
    OnlyTimersRedrawAndKeys h.machine h'.machine := by
  induction ops generalizing h with
  | nil => cases e; exact .refl _
  | cons op ops ih =>
    obtain ⟨h₁, hfirst, hrest⟩ := Session.run_next e
    have hop : op ≠ .init := (List.ne_of_not_mem_cons hinit).symm
    have hframe := Session.apply_halted_frame hfirst hop hhalt hclosed
    exact hframe.trans <| ih hrest (List.not_mem_of_not_mem_cons hinit) (hframe.halted_eq.trans hhalt)
      (Session.apply_keeps_closed hfirst hop hclosed)

/-- Settles O9: an induction over the sequence. -/
theorem haltedUntilInit : Obligations.HaltedUntilInit := by
  unfold Obligations.HaltedUntilInit
  exact fun ops h h' hhalt hinit hclosed e => Session.run_halted_frame e hinit hhalt hclosed

/-! ## Timers and the surface (R158, R162-R164) -/

/-- The countdown as a number (R158). -/
theorem toNat_countDown (b : Byte) : (countDown b).toNat = if 0 < b.toNat then b.toNat - 1 else 0 := by
  unfold countDown
  split <;> split <;> bv_omega

/-- The audio condition as a number (R164). -/
theorem State.soundOn_iff (s : State) : s.soundOn = true ↔ 0 < s.st.toNat := by
  rw [State.soundOn, bne_iff_ne]
  bv_omega

/-- Settles O6: a tick is the countdown of both timers and nothing else. -/
theorem tickAndAcknowledge : Obligations.TickAndAcknowledge := by
  unfold Obligations.TickAndAcknowledge
  exact fun s => ⟨rfl, toNat_countDown s.dt, toNat_countDown s.st, rfl, s.soundOn_iff⟩

/-- Entry `k` of a list made from 0 upward. -/
theorem getD_map_range {α : Type} (f : Nat → α) (d : α) {n k : Nat} (hk : k < n) :
    ((List.range n).map f).getD k d = f k := by
  simp [hk]

/-- The row `y` of the surface holds its cells from the left (R162). -/
theorem State.surface_row {y : Nat} (hy : y < s.height) :
    s.surface.cells.getD y [] = (List.range s.width).map fun x => s.display.cell x y :=
  getD_map_range _ _ hy

/-- The surface's entry at row `y` and column `x` is the cell (x, y) (R162). -/
theorem State.surface_cell {x y : Nat} (hx : x < s.width) (hy : y < s.height) :
    (s.surface.cells.getD y []).getD x 0 = s.display.cell x y := by
  rw [State.surface_row hy, getD_map_range _ _ hx]

/-- The surface has a row for each line of the screen (R162). -/
theorem State.length_surface_cells (s : State) : s.surface.cells.length = s.height := by
  simp [State.surface]

/-- Each row of the surface is as long as the screen is wide (R162). -/
theorem State.length_of_mem_surface_cells {row : List (BitVec 2)} (hrow : row ∈ s.surface.cells) :
    row.length = s.width := by
  obtain ⟨y, -, rfl⟩ := List.mem_map.mp hrow
  simp

/-- Settles O7: the cells by row and column, and the other items as the state has them. -/
theorem surfaceShowsTheScreen : Obligations.SurfaceShowsTheScreen := by
  unfold Obligations.SurfaceShowsTheScreen
  refine ⟨fun _ => rfl, fun _ => bne_iff_ne, fun s => ?_⟩
  exact ⟨rfl, rfl, rfl, s.length_surface_cells, fun _ => State.length_of_mem_surface_cells,
    fun _ _ => State.surface_cell, rfl, rfl, rfl, rfl⟩

end Sys2Proof.Machine

namespace Sys2Proof.Machine

variable {p : Params}

/-! ## The bytes `init` leaves (R56, R167, R168) -/

/-- The small font stands from its base upward (R168). -/
theorem resetByte_fontSmall (k : Fin 80) : resetByte p (p.fontSmallBase + k) = p.fontSmall[k] := by
  have hbase : ¬p.fontSmallBase + k < p.fontSmallBase := by omega
  simp [resetByte, hbase]

/-- The big font stands right after the small one (R168). -/
theorem resetByte_fontBig (k : Fin 160) : resetByte p (p.fontSmallBase + 80 + k) = p.fontBig[k] := by
  have hbase : ¬p.fontSmallBase + 80 + k < p.fontSmallBase := by omega
  have hsmall : ¬p.fontSmallBase + 80 + k - p.fontSmallBase < 80 := by omega
  simp [resetByte, hbase, hsmall, fontBigBase]

/-- Outside the two fonts every byte is zero (R167). -/
theorem resetByte_outside_fonts {a : Nat} (ha : a < p.fontSmallBase ∨ p.fontSmallBase + 240 ≤ a) :
    resetByte p a = 0 := by
  rcases ha with hbelow | habove
  · exact if_pos hbelow
  · have hbase : ¬a < p.fontSmallBase := by omega
    have hsmall : ¬a - p.fontSmallBase < 80 := by omega
    have hbig : ¬a - (p.fontSmallBase + 80) < 160 := by omega
    simp [resetByte, hbase, hsmall, fontBigBase, hbig]

/-- `init` empties the list of changed bytes, so each address reads as its reset byte (R167). -/
theorem State.byteAt_init (s : State) (a : Nat) : s.init.byteAt a = resetByte s.params a := rfl

/-- Settles O3: the three regions of the reset bytes. -/
theorem initInstallsTheFonts : Obligations.InitInstallsTheFonts := by
  unfold Obligations.InitInstallsTheFonts
  intro s _
  simp only [State.byteAt_init]
  exact ⟨resetByte_fontSmall, resetByte_fontBig, fun _ => resetByte_outside_fonts⟩

/-! ## Loading an image (R169) -/

/-- An image of more than 0xFE00 bytes is refused (D29). -/
theorem State.loadImage_of_lt {s : State} {image : List Byte} (hlarge : 0xFE00 < image.length) :
    s.loadImage image = none :=
  if_neg (by simp [imageFits, hlarge])

/-- An image that fits is stored from 0x200 upward (R169). -/
theorem State.loadImage_of_le {s : State} {image : List Byte} (hfits : image.length ≤ 0xFE00) :
    s.loadImage image = some (s.setBytes loadAddr image) :=
  if_pos (decide_eq_true hfits)

/-- Settles O4: an image that fits is one range of bytes stored at 0x200, and such a store changes memory alone. -/
theorem loadInstallsTheImage : Obligations.LoadInstallsTheImage := by
  unfold Obligations.LoadInstallsTheImage
  intro s image
  exact ⟨State.loadImage_of_lt, fun hfits => ⟨_, State.loadImage_of_le hfits,
    s.setBytes_only loadAddr image, fun a => s.byteAt_setBytes loadAddr a image⟩⟩

/-! ## Reset meets the invariant -/

/-- Settles O20: reset is the initial state under the default parameters, which R5 allows. -/
theorem resetMeetsTheInvariant : Obligations.ResetMeetsTheInvariant := by
  unfold Obligations.ResetMeetsTheInvariant
  have hdefaults : defaultParams.wf = true := by decide
  exact StateInv.initial hdefaults _ _

end Sys2Proof.Machine
